-- ==== Sys2Proof/Word.lean ====
section
/-! DEFINITION. The word types of the engine (spec/00_scope.md rules R8 and R9). -/

namespace Sys2Proof

/-- A 64-bit host register value: every register of the window is one 64-bit slot (R9, R51). -/
abbrev Word := BitVec 64

/-- A 32-bit half-block, L or R (R8). -/
abbrev Half := BitVec 32

/-- A 28-bit key half, C or D (R8). -/
abbrev KeyHalf := BitVec 28

/-- A 48-bit round key (R8). -/
abbrev RoundKey := BitVec 48

end Sys2Proof
end

