-- ==== Sys2Proof/Config.lean ====
section
/-! DEFINITION. What the spec leaves open: the free values of host reads, and the platform's three open
parameters (spec/92_eei_decisions.md D4, D18, D23, D30). No constant here has a body, so nothing
can be proved about its value. -/

namespace Sys2Proof

/-- How a platform maps the bytes of a 64-bit access onto its bus (R59). The spec leaves the mapping open.
DESIGN CHOICE (log entry 7): the model admits two, over eight lanes: least significant byte first, and most
significant byte first. No register value depends on it. -/
inductive ByteOrder where
  | littleEndian
  | bigEndian
deriving DecidableEq, Repr, Inhabited

/-- Draw n of source k: the unspecified 64-bit value of a host read that has no defined value (R55, U8).
A free value. DESIGN CHOICE (log entry 3): a draw is a function of a source and a counter, so two reads
with the same source and counter see the same draw; the engines of a platform have a source each. -/
opaque Config.draw : Nat → Nat → Word

/-- ENGINE_BASE of the k-th engine of the platform (R50, D4). Log entry 7. -/
opaque Config.engineBase : Nat → Nat

/-- How many engines the platform has beyond the first (R10, D18). Log entry 7. -/
opaque Config.extraEngines : Nat

/-- HOST_BUS_BYTE_ORDER (R59, D30). Log entry 7. -/
opaque Config.hostBusByteOrder : ByteOrder

/-- N_ENGINES, at least 1 (R10). -/
def Config.nEngines : Nat := Config.extraEngines + 1

end Sys2Proof
end

