-- ==== Sys2Proof/Syntax.lean ====
section
/-! DEFINITION. The command set: one constructor per row of spec/opcode_table.json (spec/30_encoding.md
rule R82). No command has an immediate or a register field (R85), so no constructor has an argument. -/

namespace Sys2Proof

/-- The ten legal commands (R82). -/
inductive Instr where
  /-- NOP, 0x00: no effect (R189). -/
  | nop
  /-- PERM.IP, 0x10: permute DIN with IP (R110). -/
  | permIp
  /-- PERM.FP, 0x11: permute DIN with FP (R111). -/
  | permFp
  /-- PERM.E, 0x12: permute DIN[31:0] with E (R112). -/
  | permE
  /-- PERM.P, 0x13: permute DIN[31:0] with P (R113). -/
  | permP
  /-- PERM.PC1, 0x14: permute DIN with PC-1 (R114). -/
  | permPc1
  /-- PERM.PC2, 0x15: permute DIN[55:0] with PC-2 (R115). -/
  | permPc2
  /-- KSCHED, 0x20: derive the sixteen round keys from KEY (R141). -/
  | ksched
  /-- ROUNDF, 0x30: the Feistel round function of DIN[31:0] and RKIN (R168). -/
  | roundf
  /-- ENCRYPT, 0x40: encrypt DIN under KEY (R188). -/
  | encrypt
deriving DecidableEq, Repr

end Sys2Proof
end

