-- ==== Sys2Proof/WellFormed.lean ====
section
/-! DEFINITION. Well-formed command words: the three checks of format CMD64 on its fields (spec/30_encoding.md
rules R80, R82 and R83). An Instr has no operand (R85), so every Instr is well formed; what can be ill
formed is a command word. -/

namespace Sys2Proof

/-- The fields of a CMD64 command word: ZERO 63:8, MAJOR 7:4, MINOR 3:0 (R80). -/
structure CmdFields where
  zero  : BitVec 56
  major : BitVec 4
  minor : BitVec 4
deriving DecidableEq, Repr

/-- ZERO "must be 0" (R80). -/
def CmdFields.zeroOk (f : CmdFields) : Bool := f.zero == 0

/-- MAJOR names an operation class of R82: 0 to 4. -/
def CmdFields.majorOk (f : CmdFields) : Bool := decide (f.major.toNat ≤ 4)

/-- MINOR is a table selector 0 to 5 when MAJOR = 1, and 0 otherwise (R80, R86). -/
def CmdFields.minorOk (f : CmdFields) : Bool :=
  if f.major = 1 then decide (f.minor.toNat ≤ 5) else f.minor == 0

/-- The word is a row of R82. -/
def CmdFields.wellFormed (f : CmdFields) : Bool := f.zeroOk && f.majorOk && f.minorOk

end Sys2Proof
end

