-- ==== Sys2Proof/Decode.lean ====
section
/-! DEFINITION. The command decoder and encoder (spec/30_encoding.md rules R80 to R83). Decoding is total on
every 64-bit value; a reserved value is rejected with the reason R83 lists for it. -/

namespace Sys2Proof

/-- Why a command word is reserved (R83). Raised by `decode`; the engine answers each with ILLEGAL_CMD. -/
inductive Reject where
  /-- bits 63:8 are not all zero. -/
  | zeroFieldNonzero
  /-- MAJOR = 1 with a table selector 6 to 15. -/
  | reservedSelector
  /-- MAJOR = 0, 2, 3 or 4 with a nonzero MINOR. -/
  | nonzeroMinor
  /-- MAJOR = 5 to 15. -/
  | reservedMajor
deriving DecidableEq, Repr

/-- The fields of a command word (R80). -/
def fieldsOf (v : Word) : CmdFields where
  zero  := v.extractLsb' 8 56
  major := v.extractLsb' 4 4
  minor := v.extractLsb' 0 4

/-- R86: the PERM command a table selector picks; 6 to 15 are reserved. -/
def decodeSelector : Nat → Except Reject Instr
  | 0 => .ok .permIp
  | 1 => .ok .permFp
  | 2 => .ok .permE
  | 3 => .ok .permP
  | 4 => .ok .permPc1
  | 5 => .ok .permPc2
  | _ => .error .reservedSelector

/-- A class whose MINOR must be 0 (R80). -/
def decodePlain (i : Instr) : Nat → Except Reject Instr
  | 0 => .ok i
  | _ => .error .nonzeroMinor

/-- R82: MAJOR selects the class, MINOR the table. -/
def decodeClass (major minor : Nat) : Except Reject Instr :=
  match major with
  | 0 => decodePlain .nop minor
  | 1 => decodeSelector minor
  | 2 => decodePlain .ksched minor
  | 3 => decodePlain .roundf minor
  | 4 => decodePlain .encrypt minor
  | _ => .error .reservedMajor

/-- R81: the decode of a value written to CMD, total on every 64-bit value. -/
def decode (v : Word) : Except Reject Instr :=
  let f := fieldsOf v
  if f.zero = 0 then decodeClass f.major.toNat f.minor.toNat else .error .zeroFieldNonzero

/-- MAJOR and MINOR of each command, from the opcode map (R82). -/
def opcodeOf : Instr → BitVec 4 × BitVec 4
  | .nop     => (0, 0)
  | .permIp  => (1, 0)
  | .permFp  => (1, 1)
  | .permE   => (1, 2)
  | .permP   => (1, 3)
  | .permPc1 => (1, 4)
  | .permPc2 => (1, 5)
  | .ksched  => (2, 0)
  | .roundf  => (3, 0)
  | .encrypt => (4, 0)

/-- The command word of a command: ZERO, MAJOR, MINOR laid out as format CMD64 (R80, R82). -/
def encode (i : Instr) : Word := (0 : BitVec 56) ++ (opcodeOf i).1 ++ (opcodeOf i).2

/-- The table's mnemonic of each command (R82). -/
def mnemonicOf : Instr → String
  | .nop     => "NOP"
  | .permIp  => "PERM.IP"
  | .permFp  => "PERM.FP"
  | .permE   => "PERM.E"
  | .permP   => "PERM.P"
  | .permPc1 => "PERM.PC1"
  | .permPc2 => "PERM.PC2"
  | .ksched  => "KSCHED"
  | .roundf  => "ROUNDF"
  | .encrypt => "ENCRYPT"

/-- The command word whose low nbits bits are those of w and whose other bits are 0. A command is
exactly one 64-bit word (R80), so bit 0 of the table's numbering is bit 0 of the word. -/
def tableWord (nbits w : Nat) : Word := BitVec.ofNat 64 (w % 2 ^ nbits)

/-- What the decoder reads from the table's word w of nbits bits; none where it rejects. -/
def decodeTableWord (nbits w : Nat) : Option Instr :=
  match decode (tableWord nbits w) with
  | .ok i => some i
  | .error _ => none

end Sys2Proof
end

