-- ==== Sys2Proof/Machine/State.lean ====
section
/-! DEFINITION. The state of one engine and of the host that drives it (spec/10_state.md rules R20 to R40,
spec/70_reset_and_hazards.md rules R240 and R248), its plain types, and the state after reset. -/

namespace Sys2Proof.Machine

/-- STATUS.CAUSE (R24, R211). The values 3 to 7 are never produced and have no constructor. -/
inductive Cause where
  /-- 0: no fault since reset. -/
  | none
  /-- 1: a reserved value was written to CMD (R212). -/
  | illegalCmd
  /-- 2: a command read an unwritten operand register (R216). -/
  | unwrittenOperand
deriving DecidableEq, Repr

/-- STATUS, by field (R24): FAULT in bit 0 and CAUSE in bits 3:1. Bits 63:4 are always 0; log entry 14. -/
structure Status where
  fault : Bool
  cause : Cause
deriving DecidableEq, Repr

/-- STATUS = 0 (R40). -/
def Status.clear : Status := ⟨false, .none⟩

/-- A register of width w with the written flag of R35. While the flag is clear the register holds no value
the spec lets anything use; the value field is then 0 after reset (log entry 1) and no operation reads it. -/
structure Reg (w : Nat) where
  value   : BitVec w
  written : Bool
deriving DecidableEq, Repr

/-- A register after reset: flag clear (R40). DESIGN CHOICE: the unread value is 0, log entry 1. -/
def Reg.unwritten (w : Nat) : Reg w := ⟨0, false⟩

/-- A register that v has been written to: the write sets the flag (R35). -/
def Reg.holding {w : Nat} (v : BitVec w) : Reg w := ⟨v, true⟩

/-- One trace record: the two 64-bit words TRHDR[j] and TRVAL[j] (R30). -/
structure TraceRecord where
  hdr : Word
  val : Word
deriving DecidableEq, Repr

/-- The label of a trace record (R34). Codes 0x00 and 0x15 to 0xFF are never produced. -/
inductive Label where
  | pt | key | ipout | l0 | r0 | pc1out | c0 | d0 | cn | dn | kn | exp | xor | sin | sout | pout
  | rnew | lnew | pre | ct
deriving DecidableEq, Repr

/-- Why a host action is refused before it reaches the engine (R222, rows 2 to 5); log entry 15. -/
inductive HostRefusal where
  /-- ldtext of a text that is not exactly 8 characters (R65): "both inputs must be exactly 8 characters". -/
  | textLength
  /-- ldtext of a character whose code is above 255 (R63). -/
  | textCode
  /-- bits_to_hex of a string whose width is not a multiple of 4 (R65). -/
  | hexWidth
  /-- ldhex of a string that is not 16 hex digits (R66). -/
  | hexText
deriving DecidableEq, Repr

/-- One host or platform action: one step of the model (R246, R248). -/
inductive HostEvent where
  /-- A host write of `bits` bits at byte offset `offset` of the window (R52, R54). -/
  | write (bits offset : Nat) (v : Word)
  /-- A host read of `bits` bits at byte offset `offset` of the window (R53, R54). -/
  | read (bits offset : Nat)
  /-- A reset of the engine, between two accesses (R240). -/
  | reset
  /-- A host action refused at the host boundary (R222). -/
  | refuse (why : HostRefusal)
deriving DecidableEq, Repr

/-- The engine's host-visible state (R20) and the run of the host program that drives it (R248). CMD keeps no
value (R23) and the working values of a command do not survive it (R37), so neither is stored. -/
structure State where
  /-- STATUS (R24). -/
  status    : Status
  /-- DIN (R25). -/
  din       : Reg 64
  /-- KEY (R26). -/
  key       : Reg 64
  /-- RKIN (R27). -/
  rkin      : Reg 48
  /-- DOUT (R28). -/
  dout      : Reg 64
  /-- RK[1..16]: entry n-1 is RK[n] (R29). -/
  rk        : Vector (Reg 48) 16
  /-- The written trace records, record 0 first (R30). Its length is TRLEN (R33), log entry 2. -/
  trace     : List TraceRecord
  /-- The host accesses still to come, the next one first (R248); log entries 6 and 9. -/
  pending   : List HostEvent
  /-- The values the host's reads returned, oldest first (R248). -/
  reads     : List Word
  /-- The refusal mark (R222, R248). -/
  refused   : Bool
  /-- The model's own counter of draws taken (R55, log entry 3). -/
  drawCount : Nat
  /-- The model's own number of the source this engine's draws come from (R55, R226, log entry 3). -/
  drawSource : Nat
deriving DecidableEq, Repr

/-- Reasons a step could stop with a fault: there is none. A fault of this engine is a next state that STATUS
records (R215), and no step is stuck (R229). Safe: nothing is cut off. -/
inductive Fault where
deriving DecidableEq, Repr

/-- Reasons a step could be refused by the model. Refused host actions of R222 are not among them: the spec
gives them an effect, the refusal mark. -/
inductive Refusal where
  /-- An instruction that has no meaning yet, raised by its arm of exec. No arm raises it. Safe. -/
  | notModelled (mnemonic : String)
deriving DecidableEq, Repr

/-- The outcome of one step of this machine. -/
abbrev Result := Host.Outcome State Fault Refusal

/-- The machine right after reset, at the start of a run (R40, R240, R248): no host access is pending, none has
been made, the mark is clear. -/
def State.reset : State where
  status    := Status.clear
  din       := Reg.unwritten 64
  key       := Reg.unwritten 64
  rkin      := Reg.unwritten 48
  dout      := Reg.unwritten 64
  rk        := Vector.replicate 16 (Reg.unwritten 48)
  trace     := []
  pending   := []
  reads     := []
  refused   := false
  drawCount := 0
  drawSource := 0

end Sys2Proof.Machine
end

