-- ==== Sys2Proof/Machine/Bits.lean ====
section
/-! DEFINITION. DES strings in integer view (spec/00_scope.md rules R11 to R13): positions are numbered from 1
at the most significant bit. -/

namespace Sys2Proof.Machine

/-- `v⟨n⟩`: position n of a w-bit DES string, which is bit w-n of the integer view (R12). -/
def pos {w : Nat} (v : BitVec w) (n : Nat) : Bool := v.getLsbD (w - n)

/-- `v⟨a..a+len-1⟩`: the len positions from a on, as a len-bit value (R13). -/
def span {w : Nat} (v : BitVec w) (a len : Nat) : BitVec len := v.extractLsb' (w - (a + len - 1)) len

/-- The unsigned value of a bit sequence, position 1 first (R12). -/
def natOfBits (bs : List Bool) : Nat := bs.foldl (fun acc b => 2 * acc + b.toNat) 0

/-- The w-bit DES string whose positions 1, 2, … are the listed bits (R12). -/
def ofBits (w : Nat) (bs : List Bool) : BitVec w := BitVec.ofNat w (natOfBits bs)

/-- The positions of a w-bit DES string in order, position 1 first (R11). -/
def bitsOf {w : Nat} (v : BitVec w) : List Bool := (List.range w).map fun k => pos v (k + 1)

/-- A narrow value in a 64-bit slot: bits w-1..0, zeros above (R36). -/
def placed {w : Nat} (v : BitVec w) : Word := v.setWidth 64

/-- A w-bit operand of a 64-bit register: bits w-1..0; the others are ignored (R36). -/
def lowBits (w : Nat) (v : Word) : BitVec w := v.setWidth w

end Sys2Proof.Machine
end

