-- ==== Sys2Proof/Machine/Ops.lean ====
section
/-! DEFINITION. The named operations on registers, the trace buffer and STATUS: written registers
(spec/10_state.md R35), the trace actions (R30 to R34), raising a fault (spec/60_exceptions.md R215) and
what clears it, reset (spec/70_reset_and_hazards.md R240). -/

namespace Sys2Proof.Machine

/-- The value a register holds, if it holds one (R35). -/
def Reg.held {w : Nat} (r : Reg w) : Option (BitVec w) := if r.written then some r.value else none

/-- `DIN <- v` (R25, R35). -/
def State.setDin (s : State) (v : Word) : State := { s with din := Reg.holding v }

/-- `KEY <- v` (R26, R35). -/
def State.setKey (s : State) (v : Word) : State := { s with key := Reg.holding v }

/-- `RKIN <- v` (R27, R35). -/
def State.setRkin (s : State) (v : BitVec 48) : State := { s with rkin := Reg.holding v }

/-- `DOUT <- zext_64(v)` (R28, R36). -/
def State.setDout {w : Nat} (s : State) (v : BitVec w) : State := { s with dout := Reg.holding (placed v) }

/-- `RK[n] <- Kn` for every n in 1..16, in one step (R29). -/
def State.setRoundKeys (s : State) (ks : Vector RoundKey 16) : State := { s with rk := ks.map Reg.holding }

/-- The label code (R34). -/
def Label.code : Label → BitVec 8
  | .pt => 0x01
  | .key => 0x02
  | .ipout => 0x03
  | .l0 => 0x04
  | .r0 => 0x05
  | .pc1out => 0x06
  | .c0 => 0x07
  | .d0 => 0x08
  | .cn => 0x09
  | .dn => 0x0A
  | .kn => 0x0B
  | .exp => 0x0C
  | .xor => 0x0D
  | .sin => 0x0E
  | .sout => 0x0F
  | .pout => 0x10
  | .rnew => 0x11
  | .lnew => 0x12
  | .pre => 0x13
  | .ct => 0x14

/-- The header word `zext_64(w[7:0] ‖ 0b0000 ‖ box[3:0] ‖ rnd[7:0] ‖ lbl[7:0])` (R32). -/
def traceHeader (lbl : Label) (rnd box w : Nat) : Word :=
  placed (BitVec.ofNat 8 w ++ (0 : BitVec 4) ++ BitVec.ofNat 4 box ++ BitVec.ofNat 8 rnd ++ lbl.code : BitVec 32)

/-- The record `trace_append(lbl, rnd, box, w, v)` writes for a w-bit value v (R30, R32). -/
def traceRecord {w : Nat} (lbl : Label) (rnd box : Nat) (v : BitVec w) : TraceRecord :=
  ⟨traceHeader lbl rnd box w, placed v⟩

/-- TRLEN: the number of valid records (R33). -/
def State.trlen (s : State) : Nat := s.trace.length

/-- `trace_clear()`: TRLEN is 0 and no record holds a value (R31, R35). -/
def State.traceClear (s : State) : State := { s with trace := [] }

/-- `trace_append` of one record at index TRLEN (R32). -/
def State.traceAppend (s : State) (r : TraceRecord) : State := { s with trace := s.trace ++ [r] }

/-- `trace_append` of several records in order (R32). -/
def State.traceAppendAll (s : State) (rs : List TraceRecord) : State := { s with trace := s.trace ++ rs }

/-- `raise Fault(c)`: the fault action, which records the first cause since reset (R215). -/
def raiseFault (c : Cause) (s : State) : State :=
  if s.status.fault then s else { s with status := ⟨true, c⟩ }

/-- Reset of the engine: every register at its reset value (R40, R240). It is the only thing that clears
STATUS (R220). The host's own part of the state is not the engine's and stays (log entry 10). -/
def resetEngine (s : State) : State :=
  { State.reset with
    pending := s.pending, reads := s.reads, refused := s.refused, drawCount := s.drawCount,
    drawSource := s.drawSource }

/-- A refused host action sets the refusal mark, which is state and stays (R222). DESIGN CHOICE: log entry 4. -/
def setRefused (s : State) : State := { s with refused := true }

end Sys2Proof.Machine
end

