-- ==== Sys2Proof/Machine/Operands.lean ====
section
/-! DEFINITION. The operand forms and the operand check every command but NOP makes (spec/60_exceptions.md
R216, spec/30_encoding.md R85 and R86, spec/10_state.md R36). -/

namespace Sys2Proof.Machine

/-- The low w bits of DIN: the operand of PERM.* and ROUNDF (R36). -/
def dinOperand (w : Nat) (s : State) : BitVec w := lowBits w s.din.value

/-- KEY, all 64 bits: the operand of KSCHED and ENCRYPT (R26). -/
def keyOperand (s : State) : Word := s.key.value

/-- RKIN[47:0]: the round key of ROUNDF (R27). -/
def rkinOperand (s : State) : RoundKey := s.rkin.value

/-- The shape of every command but NOP: unless its operand registers are written it raises UNWRITTEN_OPERAND
and writes nothing else; otherwise it clears the trace and does its work (R31, R216, R219). -/
def withOperands (written : Bool) (work : State → State) (s : State) : Result :=
  match written with
  | true => .next (work s.traceClear)
  | false => .next (raiseFault .unwrittenOperand s)

end Sys2Proof.Machine
end

