-- ==== Sys2Proof/Machine/Permutation.lean ====
section
/-! DEFINITION. The Permutation Engine: the one permute primitive and the six PERM commands
(spec/40_permutation.md rules R100 and R109 to R115). -/

namespace Sys2Proof.Machine

/-- permute(s, T): for each entry t of the table, in table order, append position t of s (R100). -/
def permute {win wout : Nat} (T : PermTable win wout) (s : BitVec win) : BitVec wout :=
  ofBits wout (T.entries.map (pos s))

/-- PERM.t, the template of all six commands (R109). -/
def execPerm {win wout : Nat} (T : PermTable win wout) (s : State) : Result :=
  withOperands s.din.written (fun t => t.setDout (permute T (dinOperand win t))) s

/-- PERM.IP (R110). -/
def execPermIp (s : State) : Result := execPerm ipTable s

/-- PERM.FP (R111). -/
def execPermFp (s : State) : Result := execPerm fpTable s

/-- PERM.E (R112). -/
def execPermE (s : State) : Result := execPerm eTable s

/-- PERM.P (R113). -/
def execPermP (s : State) : Result := execPerm pTable s

/-- PERM.PC1 (R114). -/
def execPermPc1 (s : State) : Result := execPerm pc1Table s

/-- PERM.PC2 (R115). -/
def execPermPc2 (s : State) : Result := execPerm pc2Table s

end Sys2Proof.Machine
end

