-- ==== Sys2Proof/Machine/KeySchedule.lean ====
section
/-! DEFINITION. The Key Schedule Generator and KSCHED (spec/41_key_schedule.md). -/

namespace Sys2Proof.Machine

/-- One round of the schedule: the round number n, Cn, Dn and Kn (R135, R136). -/
structure KeyRound where
  n : Nat
  c : KeyHalf
  d : KeyHalf
  k : RoundKey
deriving DecidableEq, Repr

/-- What ks yields: PC1OUT, C0, D0 and the rounds 1..16 in order (R130). -/
structure KeySchedule where
  pc1out : BitVec 56
  c0     : KeyHalf
  d0     : KeyHalf
  rounds : List KeyRound
deriving DecidableEq, Repr

/-- rotl28(v, s): left rotation of a 28-bit value by s places, in the integer view (R133). -/
def rotl28 (v : KeyHalf) (s : Nat) : KeyHalf := (v <<< s) ||| (v >>> (28 - s))

/-- Steps 3 and 4 for the rounds from n on: rotate the already rotated halves, then PC-2 (R135, R136). -/
def keyRounds (n : Nat) (c d : KeyHalf) : List Nat → List KeyRound
  | [] => []
  | s :: rest =>
    ⟨n, rotl28 c s, rotl28 d s, permute pc2Table (rotl28 c s ++ rotl28 d s)⟩ ::
      keyRounds (n + 1) (rotl28 c s) (rotl28 d s) rest

/-- ks(key) in full (R131, R132, R137). -/
def ks (key : Word) : KeySchedule :=
  let pc1out := permute pc1Table key
  let c0 := span pc1out 1 28
  let d0 := span pc1out 29 28
  ⟨pc1out, c0, d0, keyRounds 1 c0 d0 shiftSchedule⟩

/-- The schedule has one round per entry of the list of shifts. -/
theorem keyRounds_length (n : Nat) (c d : KeyHalf) (shifts : List Nat) :
    (keyRounds n c d shifts).length = shifts.length := by
  induction shifts generalizing n c d with
  | nil => rfl
  | cons s rest ih => simp [keyRounds, ih]

/-- ks yields exactly sixteen rounds (R137). -/
theorem ks_rounds_length (key : Word) : (ks key).rounds.length = 16 :=
  keyRounds_length 1 _ _ shiftSchedule

/-- The round keys K1..K16 of a key; entry n-1 is Kn (R130). -/
def roundKeys (key : Word) : Vector RoundKey 16 :=
  ⟨((ks key).rounds.map KeyRound.k).toArray, by simp [ks_rounds_length]⟩

/-- The records of one round of the schedule: T.CN, T.DN, T.KN (R141). -/
def keyRoundRecords (r : KeyRound) : List TraceRecord :=
  [traceRecord .cn r.n 0 r.c, traceRecord .dn r.n 0 r.d, traceRecord .kn r.n 0 r.k]

/-- The schedule's records after T.KEY: T.PC1OUT, T.C0, T.D0, then each round's (R141, R186). -/
def keyScheduleRecords (sched : KeySchedule) : List TraceRecord :=
  [traceRecord .pc1out 0 0 sched.pc1out, traceRecord .c0 0 0 sched.c0, traceRecord .d0 0 0 sched.d0] ++
    sched.rounds.flatMap keyRoundRecords

/-- The 52 records of KSCHED (R141). -/
def kschedRecords (key : Word) : List TraceRecord :=
  traceRecord .key 0 0 key :: keyScheduleRecords (ks key)

/-- KSCHED (R141). -/
def execKsched (s : State) : Result :=
  withOperands s.key.written
    (fun t => (t.setRoundKeys (roundKeys (keyOperand t))).traceAppendAll (kschedRecords (keyOperand t))) s

end Sys2Proof.Machine
end

