-- ==== Sys2Proof/Machine/RoundFunction.lean ====
section
/-! DEFINITION. The Feistel round function f, its S-box array, and ROUNDF (spec/42_round_function.md). -/

namespace Sys2Proof.Machine

/-- row(B) = 2·B⟨1⟩ + B⟨6⟩ (R154). -/
def rowOf (B : BitVec 6) : Fin 4 :=
  ⟨2 * (pos B 1).toNat + (pos B 6).toNat, by
    have h1 := Bool.toNat_le (pos B 1)
    have h6 := Bool.toNat_le (pos B 6)
    omega⟩

/-- col(B) = 8·B⟨2⟩ + 4·B⟨3⟩ + 2·B⟨4⟩ + B⟨5⟩ (R154). -/
def colOf (B : BitVec 6) : Fin 16 :=
  ⟨8 * (pos B 2).toNat + 4 * (pos B 3).toNat + 2 * (pos B 4).toNat + (pos B 5).toNat, by
    have h2 := Bool.toNat_le (pos B 2)
    have h3 := Bool.toNat_le (pos B 3)
    have h4 := Bool.toNat_le (pos B 4)
    have h5 := Bool.toNat_le (pos B 5)
    omega⟩

/-- The output of an S-box: its entry at the row and column of the 6-bit input (R155). -/
def sboxLookup (S : SBox) (B : BitVec 6) : BitVec 4 := (S[rowOf B])[colOf B]

/-- The 6-bit block of index i, which is B(i+1) = X⟨6i+1 .. 6i+6⟩ (R153). -/
def sboxInput (x : BitVec 48) (i : Fin 8) : BitVec 6 := span x (6 * i.val + 1) 6

/-- O(i+1): S-box i+1 applied to block i+1 (R155). -/
def sboxOutput (x : BitVec 48) (i : Fin 8) : BitVec 4 := sboxLookup sboxes[i] (sboxInput x i)

/-- SOUT = O1 ‖ O2 ‖ … ‖ O8: the eight 4-bit outputs, concatenated in box order (R155). -/
def substitute (x : BitVec 48) : Half := ofBits 32 ((List.finRange 8).flatMap fun i => bitsOf (sboxOutput x i))

/-- What f yields: EXP, X, SOUT and POUT; the blocks B1..B8 are those of X (R150). -/
structure FValues where
  exp  : BitVec 48
  x    : BitVec 48
  sout : Half
  pout : Half
deriving DecidableEq, Repr

/-- f(R, K) in full (R157). -/
def feistel (r : Half) (k : RoundKey) : FValues :=
  let exp := permute eTable r
  let x := exp ^^^ k
  let sout := substitute x
  ⟨exp, x, sout, permute pTable sout⟩

/-- The twelve records of one application of f in round n, or n = 0 for a stand-alone ROUNDF: T.EXP, T.XOR,
T.SIN for the boxes 1..8, T.SOUT, T.POUT (R168, R186). -/
def feistelRecords (n : Nat) (fv : FValues) : List TraceRecord :=
  [traceRecord .exp n 0 fv.exp, traceRecord .xor n 0 fv.x] ++
    (List.finRange 8).map (fun i => traceRecord .sin n (i.val + 1) (sboxInput fv.x i)) ++
    [traceRecord .sout n 0 fv.sout, traceRecord .pout n 0 fv.pout]

/-- ROUNDF (R168). -/
def execRoundf (s : State) : Result :=
  withOperands (s.din.written && s.rkin.written)
    (fun t =>
      let fv := feistel (dinOperand 32 t) (rkinOperand t)
      (t.setDout fv.pout).traceAppendAll (feistelRecords 0 fv)) s

end Sys2Proof.Machine
end

