-- ==== Sys2Proof/Machine/Pipeline.lean ====
section
/-! DEFINITION. The Encryption Pipeline: des_encrypt, ENCRYPT and NOP (spec/43_pipeline.md). -/

namespace Sys2Proof.Machine

/-- One Feistel round: its number n, f's values, and the new halves Rn and Ln (R183). -/
structure Round where
  n    : Nat
  fv   : FValues
  rnew : Half
  lnew : Half
deriving DecidableEq, Repr

/-- Everything an encryption computes, in the source's step order (R187). -/
structure Encryption where
  ipout  : Word
  l0     : Half
  r0     : Half
  sched  : KeySchedule
  rounds : List Round
  pre    : Word
  ct     : Word
deriving DecidableEq, Repr

/-- One round: new R = L ⊕ f(R, K), new L = old R (R183). -/
def feistelRound (l r : Half) (k : KeyRound) : Round :=
  let fv := feistel r k.k
  ⟨k.n, fv, l ^^^ fv.pout, r⟩

/-- The rounds from the halves L and R on, one per round key, in order (R183). -/
def feistelRounds (l r : Half) : List KeyRound → List Round
  | [] => []
  | k :: rest => feistelRound l r k :: feistelRounds (feistelRound l r k).lnew (feistelRound l r k).rnew rest

/-- The halves (L, R) after the rounds; the given ones if there is no round. -/
def lastHalves (l r : Half) : List Round → Half × Half
  | [] => (l, r)
  | x :: rest => lastHalves x.lnew x.rnew rest

/-- des_encrypt(PT, KY) in full (R181 to R187). -/
def desEncrypt (pt ky : Word) : Encryption :=
  let ipout := permute ipTable pt
  let l0 := span ipout 1 32
  let r0 := span ipout 33 32
  let sched := ks ky
  let rounds := feistelRounds l0 r0 sched.rounds
  let halves := lastHalves l0 r0 rounds
  let pre := halves.2 ++ halves.1
  ⟨ipout, l0, r0, sched, rounds, pre, permute fpTable pre⟩

/-- The fourteen records of one round (R186). -/
def roundRecords (x : Round) : List TraceRecord :=
  feistelRecords x.n x.fv ++ [traceRecord .rnew x.n 0 x.rnew, traceRecord .lnew x.n 0 x.lnew]

/-- The 282 records of ENCRYPT, in order (R186). -/
def encryptRecords (pt ky : Word) : List TraceRecord :=
  let en := desEncrypt pt ky
  [traceRecord .pt 0 0 pt, traceRecord .key 0 0 ky, traceRecord .ipout 0 0 en.ipout,
    traceRecord .l0 0 0 en.l0, traceRecord .r0 0 0 en.r0] ++
    keyScheduleRecords en.sched ++ en.rounds.flatMap roundRecords ++
    [traceRecord .pre 0 0 en.pre, traceRecord .ct 0 0 en.ct]

/-- ENCRYPT (R188). -/
def execEncrypt (s : State) : Result :=
  withOperands (s.din.written && s.key.written)
    (fun t =>
      let pt := dinOperand 64 t
      let ky := keyOperand t
      ((t.traceAppendAll (encryptRecords pt ky)).setRoundKeys (roundKeys ky)).setDout (desEncrypt pt ky).ct) s

/-- NOP: no effect (R189). -/
def execNop (s : State) : Result := .next s

end Sys2Proof.Machine
end

