-- ==== Sys2Proof/Machine/Dispatch.lean ====
section
/-! DEFINITION. The dispatch of a decoded command to its meaning: one arm per constructor of Instr
(spec/30_encoding.md rule R82). -/

namespace Sys2Proof.Machine

def exec (i : Instr) (s : State) : Host.Outcome State Fault Refusal :=
  match i with
  | .nop => Sys2Proof.Machine.execNop s
  | .permIp => Sys2Proof.Machine.execPermIp s
  | .permFp => Sys2Proof.Machine.execPermFp s
  | .permE => Sys2Proof.Machine.execPermE s
  | .permP => Sys2Proof.Machine.execPermP s
  | .permPc1 => Sys2Proof.Machine.execPermPc1 s
  | .permPc2 => Sys2Proof.Machine.execPermPc2 s
  | .ksched => Sys2Proof.Machine.execKsched s
  | .roundf => Sys2Proof.Machine.execRoundf s
  | .encrypt => Sys2Proof.Machine.execEncrypt s

end Sys2Proof.Machine
end

