-- ==== Sys2Proof/Machine/Flags.lean ====
section
/-! DEFINITION. STATUS as the host reads it (spec/10_state.md R24). The engine has no other flag and no command
sets one as a side effect of its result (R39). -/

namespace Sys2Proof.Machine

/-- The 3-bit code of a cause (R211). -/
def Cause.code : Cause → BitVec 3
  | .none => 0
  | .illegalCmd => 1
  | .unwrittenOperand => 2

/-- STATUS as a 64-bit value: FAULT in bit 0, CAUSE in bits 3:1, zeros above (R24). -/
def statusWord (st : Status) : Word := placed (st.cause.code ++ BitVec.ofBool st.fault : BitVec 4)

end Sys2Proof.Machine
end

