-- ==== Sys2Proof/Machine/Window.lean ====
section
/-! DEFINITION. The register window: the map from offsets to registers and the legality of an access
(spec/20_memory.md rules R50, R51 and R54). -/

namespace Sys2Proof.Machine

/-- A register of the map (R51); rk n is RK[n+1]. -/
inductive RegName where
  | cmd
  | status
  | din
  | key
  | rkin
  | dout
  | trlen
  | rk (n : Fin 16)
  | trhdr (j : Fin 282)
  | trval (j : Fin 282)
deriving DecidableEq, Repr

/-- The size of the window in bytes: offsets 0x0000 to 0x2FFF (R50). -/
def windowSize : Nat := 0x3000

/-- The byte offset of a register (R51). -/
def offsetOf : RegName → Nat
  | .cmd => 0x000
  | .status => 0x008
  | .din => 0x010
  | .key => 0x018
  | .rkin => 0x020
  | .dout => 0x028
  | .trlen => 0x030
  | .rk n => 0x080 + 8 * n.val
  | .trhdr j => 0x1000 + 16 * j.val
  | .trval j => 0x1008 + 16 * j.val

/-- The register whose slot starts at a byte offset; none where the map has no register, which for a legal
access is a reserved offset (R51). -/
def regAt (offset : Nat) : Option RegName :=
  if offset = 0x000 then some .cmd
  else if offset = 0x008 then some .status
  else if offset = 0x010 then some .din
  else if offset = 0x018 then some .key
  else if offset = 0x020 then some .rkin
  else if offset = 0x028 then some .dout
  else if offset = 0x030 then some .trlen
  else if offset < 0x080 then none
  else if h : (offset - 0x080) / 8 < 16 then
    if offset % 8 = 0 then some (.rk ⟨(offset - 0x080) / 8, h⟩) else none
  else if offset < 0x1000 then none
  else if h : (offset - 0x1000) / 16 < 282 then
    if offset % 16 = 0 then some (.trhdr ⟨(offset - 0x1000) / 16, h⟩)
    else if offset % 16 = 8 then some (.trval ⟨(offset - 0x1000) / 16, h⟩)
    else none
  else none

/-- An access is legal when it is 64 bits wide, at a multiple of 8, inside the window (R54). -/
def accessLegal (bits offset : Nat) : Bool :=
  bits == 64 && offset % 8 == 0 && decide (offset < windowSize)

end Sys2Proof.Machine
end

