-- ==== Sys2Proof/Machine/HostAccess.lean ====
section
/-! DEFINITION. Host accesses and the issue of a command: HostWrite, HostRead, the decode rule and the refused
actions (spec/20_memory.md rules R52 to R55, spec/30_encoding.md rule R81, spec/60_exceptions.md rules
R217, R218 and R222). -/

namespace Sys2Proof.Machine

/-- A write of v to CMD: a faulted engine ignores it, a reserved value raises ILLEGAL_CMD, a legal value
performs its command (R81, R212, R217, R218). FAULT is looked at here and not in exec: log entry 11. -/
def issueCommand (v : Word) (s : State) : Result :=
  if s.status.fault then .next s
  else
    match decode v with
    | .error _ => .next (raiseFault .illegalCmd s)
    | .ok i => exec i s

/-- A host write to a register other than CMD: DIN, KEY and RKIN take it (RKIN its low 48 bits); the read-only
registers ignore it (R27, R52, R55). -/
def writeRegister (r : RegName) (v : Word) (s : State) : State :=
  match r with
  | .din => s.setDin v
  | .key => s.setKey v
  | .rkin => s.setRkin (lowBits 48 v)
  | .cmd => s
  | .status => s
  | .dout => s
  | .trlen => s
  | .rk _ => s
  | .trhdr _ => s
  | .trval _ => s

/-- HostWrite(offset, v) at a legal offset; a reserved offset ignores it (R52, R55). -/
def hostWrite (offset : Nat) (v : Word) (s : State) : Result :=
  match regAt offset with
  | none => .next s
  | some .cmd => issueCommand v s
  | some r => .next (writeRegister r v s)

/-- The defined value a host read of a register returns; none where the register holds no value (R53, R55). -/
def registerValue (r : RegName) (s : State) : Option Word :=
  match r with
  | .cmd => some 0
  | .status => some (statusWord s.status)
  | .din => s.din.held
  | .key => s.key.held
  | .rkin => s.rkin.held.map placed
  | .dout => s.dout.held
  | .trlen => some (BitVec.ofNat 64 s.trlen)
  | .rk n => s.rk[n].held.map placed
  | .trhdr j => s.trace[j.val]?.map TraceRecord.hdr
  | .trval j => s.trace[j.val]?.map TraceRecord.val

/-- The host observes a value its read returned (R248). -/
def observeRead (v : Word) (s : State) : State := { s with reads := s.reads ++ [v] }

/-- A read with no defined value observes a fresh draw (R55): the next one of the engine's own source.
DESIGN CHOICE: log entry 3. -/
def observeDraw (s : State) : State :=
  { s with reads := s.reads ++ [Config.draw s.drawSource s.drawCount], drawCount := s.drawCount + 1 }

/-- HostRead(offset) at a legal offset: it changes no register (R53, R55). -/
def hostRead (offset : Nat) (s : State) : State :=
  match (regAt offset).bind (registerValue · s) with
  | some v => observeRead v s
  | none => observeDraw s

/-- One host or platform action, as one step: a legal access is performed, any other is refused (R54, R222,
R240, R246). -/
def performEvent (e : HostEvent) (s : State) : Result :=
  match e with
  | .write bits offset v => if accessLegal bits offset then hostWrite offset v s else .next (setRefused s)
  | .read bits offset => if accessLegal bits offset then .next (hostRead offset s) else .next (setRefused s)
  | .reset => .next (resetEngine s)
  | .refuse _ => .next (setRefused s)

/-- The next action of the host, taken from the list of actions to come. With none to come the engine is idle
(R228, R241); a run that met a refused action has ended (R248). DEDUCED: log entry 5. -/
def performNext (s : State) : Result :=
  if s.refused then .next s
  else
    match s.pending with
    | [] => .next s
    | e :: rest => performEvent e { s with pending := rest }

/-- The state whose next action is a write of a command word to CMD, on an engine that is not faulted and a run
that has not ended, so that the next step issues exactly that word (log entry 6). -/
def withCommand (s : State) (v : Word) : State :=
  { s with status := Status.clear, refused := false, pending := .write 64 (offsetOf .cmd) v :: s.pending }

end Sys2Proof.Machine
end

