-- ==== Sys2Proof/Machine/Step.lean ====
section
/-! DEFINITION. One step of the machine: the host's next access, with the whole command it may issue
(spec/70_reset_and_hazards.md rules R246 and R248). -/

namespace Sys2Proof.Machine

/-- One step: the next host or platform action (R246). -/
def step (s : State) : Host.Outcome State Fault Refusal := performNext s

/-- s with the table's word w of nbits bits as the command the next step issues. -/
def State.withFetchWord (s : State) (nbits w : Nat) : State := withCommand s (tableWord nbits w)

end Sys2Proof.Machine
end

