-- ==== Sys2Proof/Machine/Codec.lean ====
section
/-! DEFINITION. The host-side Bit Codec and the rendering of results (spec/20_memory.md rules R62 to R67). The
engine performs none of these; a contract violation is a refusal at the host boundary (R65, R222). -/

namespace Sys2Proof.Machine

/-- `b(c)`: the 8-bit string of a character code, most significant bit first (R63). -/
def charBits (code : Nat) : List Bool := bitsOf (BitVec.ofNat 8 code)

/-- text_to_bits: each character's 8 bits, in input order; a code above 255 is refused (R62, R63). -/
def textToBits (text : List Char) : Except HostRefusal (List Bool) :=
  if text.all (fun c => decide (c.toNat ≤ 255)) then .ok (text.flatMap fun c => charBits c.toNat)
  else .error .textCode

/-- The operand `ldtext` writes: text of exactly 8 characters, as a 64-bit block (R58, R62, R65). -/
def textOperand (text : List Char) : Except HostRefusal Word :=
  if text.length = 8 then (textToBits text).map (ofBits 64) else .error .textLength

/-- The uppercase hexadecimal digit of a value 0 to 15 (R64). -/
def hexDigit (n : Nat) : Char := if n < 10 then Char.ofNat (48 + n) else Char.ofNat (55 + n)

/-- The groups of four positions 4k-3 .. 4k of a bit string (R64). -/
def nibbles : List Bool → List (List Bool)
  | a :: b :: c :: d :: rest => [a, b, c, d] :: nibbles rest
  | _ => []

/-- bits_to_hex: digit k is the value of positions 4k-3 .. 4k; a width that is not a multiple of 4 is refused
(R64, R65). -/
def bitsToHex (s : List Bool) : Except HostRefusal (List Char) :=
  if s.length % 4 = 0 then .ok ((nibbles s).map fun q => hexDigit (natOfBits q)) else .error .hexWidth

/-- The value of a hex digit `0-9`, `A-F` or `a-f` (R66). -/
def hexValue (c : Char) : Option Nat :=
  let n := c.toNat
  if 48 ≤ n ∧ n ≤ 57 then some (n - 48)
  else if 65 ≤ n ∧ n ≤ 70 then some (n - 55)
  else if 97 ≤ n ∧ n ≤ 102 then some (n - 87)
  else none

/-- hex_to_bits: digit k gives positions 4k-3 .. 4k; a character that is no hex digit is refused (R66, R222). -/
def hexToBits : List Char → Except HostRefusal (List Bool)
  | [] => .ok []
  | c :: rest =>
    match hexValue c, hexToBits rest with
    | some n, .ok bs => .ok (bitsOf (BitVec.ofNat 4 n) ++ bs)
    | _, _ => .error .hexText

/-- The operand `ldhex` writes: exactly 16 hex digits, as a 64-bit value (R66, R88, R222). -/
def hexOperand (h : List Char) : Except HostRefusal Word :=
  if h.length = 16 then (hexToBits h).map (ofBits 64) else .error .hexText

/-- The LABEL field of a record's header, bits 7:0 (R30). -/
def TraceRecord.label (r : TraceRecord) : Nat := (r.hdr.extractLsb' 0 8).toNat

/-- The ROUND field, bits 15:8 (R30). -/
def TraceRecord.round (r : TraceRecord) : Nat := (r.hdr.extractLsb' 8 8).toNat

/-- The BOX field, bits 19:16 (R30). -/
def TraceRecord.box (r : TraceRecord) : Nat := (r.hdr.extractLsb' 16 4).toNat

/-- The WIDTH field, bits 31:24 (R30). -/
def TraceRecord.width (r : TraceRecord) : Nat := (r.hdr.extractLsb' 24 8).toNat

/-- The value of a record as a bit string: its low WIDTH bits (R30, R67). -/
def TraceRecord.bits (r : TraceRecord) : List Bool := bitsOf (r.val.setWidth r.width)

/-- The binary rendering of a record's value (R67). -/
def renderBinary (r : TraceRecord) : List Char := r.bits.map fun b => if b then '1' else '0'

/-- The hex rendering of a record's value, refused where 4 does not divide its width (R64, R67). -/
def renderHex (r : TraceRecord) : Except HostRefusal (List Char) := bitsToHex r.bits

/-- The output contract's ciphertext text: bits_to_hex of a 64-bit DOUT value (R67). -/
def ciphertextText (dout : Word) : Except HostRefusal (List Char) := bitsToHex (bitsOf dout)

end Sys2Proof.Machine
end

