-- ==== Sys2Proof/Machine/HostProgram.lean ====
section
/-! DEFINITION. Host programs and what else a host does in a run: the lines of spec/30_encoding.md rule R87, the pseudo-instructions of R88, and
the start of a run (spec/70_reset_and_hazards.md rule R248). -/

namespace Sys2Proof.Machine

/-- The registers `ldtext` may load: DIN and KEY (R88). -/
inductive TextReg where
  | din
  | key
deriving DecidableEq, Repr

/-- The register of the map a text register is. -/
def textRegName : TextReg → RegName
  | .din => .din
  | .key => .key

/-- One line of a host program (R87, R88). -/
inductive HostLine where
  /-- `wr REG, IMM`. -/
  | wr (r : RegName) (imm : Word)
  /-- `rd REG`. -/
  | rd (r : RegName)
  /-- A command's mnemonic. -/
  | command (i : Instr)
  /-- `des PT, K`. -/
  | des (pt k : Word)
  /-- `feistel R, K`. -/
  | feistel (r k : Word)
  /-- `ldtext REG, "c1…c8"`. -/
  | ldtext (r : TextReg) (text : List Char)
  /-- `ldhex REG, "h1…h16"`. -/
  | ldhex (r : RegName) (digits : List Char)
deriving DecidableEq, Repr

/-- HostWrite(offset(REG), v): one 64-bit write (R87). -/
def writeAccess (r : RegName) (v : Word) : HostEvent := .write 64 (offsetOf r) v

/-- HostRead(offset(REG)): one 64-bit read (R87). -/
def readAccess (r : RegName) : HostEvent := .read 64 (offsetOf r)

/-- The write of an operand the host computed, or its refusal at the boundary (R222). -/
def loadAccess (r : RegName) : Except HostRefusal Word → HostEvent
  | .ok v => writeAccess r v
  | .error why => .refuse why

/-- The accesses a line stands for (R87, R88). -/
def expandLine : HostLine → List HostEvent
  | .wr r imm => [writeAccess r imm]
  | .rd r => [readAccess r]
  | .command i => [writeAccess .cmd (encode i)]
  | .des pt k => [writeAccess .din pt, writeAccess .key k, writeAccess .cmd (encode .encrypt)]
  | .feistel r k => [writeAccess .din r, writeAccess .rkin k, writeAccess .cmd (encode .roundf)]
  | .ldtext r text => [loadAccess (textRegName r) (textOperand text)]
  | .ldhex r digits => [loadAccess r (hexOperand digits)]

/-- What a host may do in a run: perform a line of its program (R87), or render a bit string, such as the bits
of a trace record or of DOUT, by bits_to_hex (R64, R67). -/
inductive HostAction where
  | line (l : HostLine)
  | toHex (bits : List Bool)
deriving DecidableEq, Repr

/-- A conversion the host makes for itself: it reaches no register, and a refused one is an action of the run
(R222, row 4). -/
def hexAccess : Except HostRefusal (List Char) → List HostEvent
  | .ok _ => []
  | .error why => [.refuse why]

/-- The accesses and refusals a host action stands for (R87, R88, R222). -/
def expandAction : HostAction → List HostEvent
  | .line l => expandLine l
  | .toHex bits => hexAccess (bitsToHex bits)

/-- The start of a run: the reset state with the actions of the host to come (R248). -/
def launchActions (actions : List HostAction) : State :=
  { State.reset with pending := actions.flatMap expandAction }

/-- The start of a program's run (R248). -/
def launch (lines : List HostLine) : State := launchActions (lines.map .line)

/-- The state after k steps. Every step answers a next state (R229); a step that did not would leave it there. -/
def runSteps : Nat → State → State
  | 0, s => s
  | k + 1, s =>
    match step s with
    | .next t => runSteps k t
    | .fault _ => s
    | .refused _ => s

/-- The end of a run: one step per access, in list order (R248). -/
def runToEnd (s : State) : State := runSteps s.pending.length s

end Sys2Proof.Machine
end

