-- ==== Sys2Proof/Machine/Assembler.lean ====
section
/-! DEFINITION. The text of host programs: the grammar of spec/30_encoding.md rules R87 and R88. Mnemonics
and register names are case-insensitive and a semicolon begins a comment (R87). Blank space, quoting and
the case of the other keywords follow log entry 8. -/

namespace Sys2Proof.Machine

/-- A piece of a line: a bare word, a comma, or a quoted text. -/
inductive Token where
  | word (w : List Char)
  | comma
  | text (t : List Char)
deriving DecidableEq, Repr

/-- The double quote character. -/
def quoteChar : Char := Char.ofNat 34

/-- The word collected so far, if any; its characters stand in reverse. -/
def flushWord (cur : List Char) : List Token := if cur.isEmpty then [] else [.word cur.reverse]

/-- The tokens of a line. `quoted` holds the open quoted text, if one is open, and `cur` the open word, both in
reverse. A semicolon outside a quoted text ends the line (R87). -/
def lexLine (quoted : Option (List Char)) (cur : List Char) : List Char → Option (List Token)
  | [] =>
    match quoted with
    | some _ => none
    | none => some (flushWord cur)
  | c :: rest =>
    match quoted with
    | some q =>
      if c = quoteChar then (lexLine none [] rest).map (Token.text q.reverse :: ·)
      else lexLine (some (c :: q)) [] rest
    | none =>
      if c = ';' then some (flushWord cur)
      else if c = ',' then (lexLine none [] rest).map fun ts => flushWord cur ++ Token.comma :: ts
      else if c = quoteChar then (lexLine (some []) [] rest).map fun ts => flushWord cur ++ ts
      else if c.isWhitespace then (lexLine none [] rest).map fun ts => flushWord cur ++ ts
      else lexLine none (c :: cur) rest

/-- A name in lower case: mnemonics and register names are case-insensitive (R87). -/
def lowerWord (w : List Char) : List Char := w.map Char.toLower

/-- The value of a decimal digit. -/
def decValue (c : Char) : Option Nat :=
  if 48 ≤ c.toNat ∧ c.toNat ≤ 57 then some (c.toNat - 48) else none

/-- The value of a digit sequence in a base, from a value on; none where a character is no digit. -/
def digitsFrom (base : Nat) (digit : Char → Option Nat) (acc : Nat) : List Char → Option Nat
  | [] => some acc
  | c :: rest => (digit c).bind fun d => digitsFrom base digit (base * acc + d) rest

/-- A nonempty decimal number. -/
def parseDec (w : List Char) : Option Nat := if w.isEmpty then none else digitsFrom 10 decValue 0 w

/-- IMM: "0x" and 1 to 16 hex digits, zero-extended to 64 bits (R87). -/
def parseImm : List Char → Option Word
  | '0' :: 'x' :: digits =>
    if digits.isEmpty || decide (16 < digits.length) then none
    else (digitsFrom 16 hexValue 0 digits).map (BitVec.ofNat 64)
  | _ => none

/-- RK<n>, n = 1..16 (R87). -/
def parseRk (w : List Char) : Option RegName :=
  (parseDec w).bind fun n => if h : 1 ≤ n ∧ n ≤ 16 then some (.rk ⟨n - 1, by omega⟩) else none

/-- The index of TRHDR<j> or TRVAL<j>, j = 0..281 (R87). -/
def parseTraceIndex (w : List Char) : Option (Fin 282) :=
  (parseDec w).bind fun j => if h : j < 282 then some ⟨j, h⟩ else none

/-- REG (R87). -/
def parseReg (w : List Char) : Option RegName :=
  match lowerWord w with
  | ['c', 'm', 'd'] => some .cmd
  | ['s', 't', 'a', 't', 'u', 's'] => some .status
  | ['d', 'i', 'n'] => some .din
  | ['k', 'e', 'y'] => some .key
  | ['r', 'k', 'i', 'n'] => some .rkin
  | ['d', 'o', 'u', 't'] => some .dout
  | ['t', 'r', 'l', 'e', 'n'] => some .trlen
  | 't' :: 'r' :: 'h' :: 'd' :: 'r' :: j => (parseTraceIndex j).map .trhdr
  | 't' :: 'r' :: 'v' :: 'a' :: 'l' :: j => (parseTraceIndex j).map .trval
  | 'r' :: 'k' :: n => parseRk n
  | _ => none

/-- MNEMONIC (R87). -/
def parseMnemonic (w : List Char) : Option Instr :=
  match lowerWord w with
  | ['n', 'o', 'p'] => some .nop
  | ['p', 'e', 'r', 'm', '.', 'i', 'p'] => some .permIp
  | ['p', 'e', 'r', 'm', '.', 'f', 'p'] => some .permFp
  | ['p', 'e', 'r', 'm', '.', 'e'] => some .permE
  | ['p', 'e', 'r', 'm', '.', 'p'] => some .permP
  | ['p', 'e', 'r', 'm', '.', 'p', 'c', '1'] => some .permPc1
  | ['p', 'e', 'r', 'm', '.', 'p', 'c', '2'] => some .permPc2
  | ['k', 's', 'c', 'h', 'e', 'd'] => some .ksched
  | ['r', 'o', 'u', 'n', 'd', 'f'] => some .roundf
  | ['e', 'n', 'c', 'r', 'y', 'p', 't'] => some .encrypt
  | _ => none

/-- REG of `ldtext`: DIN or KEY (R88). -/
def parseTextReg (w : List Char) : Option TextReg :=
  match parseReg w with
  | some .din => some .din
  | some .key => some .key
  | _ => none

/-- A line with two operands, by its first word: wr, des, feistel (R87, R88). The first word may be in any case.
DESIGN CHOICE: log entry 8. -/
def parseTwoWords (op a b : List Char) : Option HostLine :=
  match lowerWord op with
  | ['w', 'r'] => (parseReg a).bind fun r => (parseImm b).map fun v => .wr r v
  | ['d', 'e', 's'] => (parseImm a).bind fun pt => (parseImm b).map fun k => .des pt k
  | ['f', 'e', 'i', 's', 't', 'e', 'l'] => (parseImm a).bind fun r => (parseImm b).map fun k => .feistel r k
  | _ => none

/-- A line with a register and a quoted text: ldtext, ldhex (R88). The first word may be in any case.
DESIGN CHOICE: log entry 8. -/
def parseLoad (op a t : List Char) : Option HostLine :=
  match lowerWord op with
  | ['l', 'd', 't', 'e', 'x', 't'] => (parseTextReg a).map fun r => .ldtext r t
  | ['l', 'd', 'h', 'e', 'x'] => (parseReg a).map fun r => .ldhex r t
  | _ => none

/-- A line from its tokens; an empty line stands for nothing. None where it is no line of the grammar. The word
rd may be in any case. DESIGN CHOICE: log entry 8. -/
def parseTokens : List Token → Option (List HostLine)
  | [] => some []
  | [.word w] => (parseMnemonic w).map fun i => [.command i]
  | [.word op, .word r] =>
    if lowerWord op = ['r', 'd'] then (parseReg r).map fun x => [.rd x] else none
  | [.word op, .word a, .comma, .word b] => (parseTwoWords op a b).map fun l => [l]
  | [.word op, .word a, .comma, .text t] => (parseLoad op a t).map fun l => [l]
  | _ => none

/-- The host lines of one line of text (R87, R88). -/
def parseLine (line : List Char) : Option (List HostLine) := (lexLine none [] line).bind parseTokens

/-- The host program of a text, given by its lines; none where a line is not in the grammar. -/
def assemble : List (List Char) → Option (List HostLine)
  | [] => some []
  | line :: rest => (parseLine line).bind fun l => (assemble rest).map fun ls => l ++ ls

end Sys2Proof.Machine
end

