-- ==== Sys2Proof/Machine/Platform.lean ====
section
/-! DEFINITION. A platform of several engines (spec/00_scope.md rule R10, spec/60_exceptions.md rule R226), each
with its own window at its own base (spec/20_memory.md rule R50), and the byte lanes of its bus (R59). -/

namespace Sys2Proof.Machine

/-- One engine of a platform, with the base address of its window (R50, R226). -/
structure EngineSlot where
  base : Nat
  core : State
deriving DecidableEq, Repr

/-- A platform: its engines. They share nothing but the constant tables (R226). -/
structure Platform where
  engines : List EngineSlot
deriving DecidableEq, Repr

/-- The platform after every engine's reset, with the platform's own count and bases (R10, R50). Engine k draws
from source k, so nothing relates the draws of two engines (R55, R226). DESIGN CHOICE: log entry 3. -/
def Platform.start : Platform where
  engines := (List.range Config.nEngines).map fun k => ⟨Config.engineBase k, { State.reset with drawSource := k }⟩

/-- One step of an engine; a step that answers no state would leave it as it is. -/
def stepSlot (e : EngineSlot) : EngineSlot :=
  match step e.core with
  | .next t => { e with core := t }
  | .fault _ => e
  | .refused _ => e

/-- Engine k makes its next step; the others do nothing (R60, R226). -/
def Platform.stepEngine (p : Platform) (k : Nat) : Platform := ⟨p.engines.modify k stepSlot⟩

/-- Reset of engine k alone: it does not affect any other engine (R240). -/
def Platform.resetEngine (p : Platform) (k : Nat) : Platform :=
  ⟨p.engines.modify k fun e => { e with core := Sys2Proof.Machine.resetEngine e.core }⟩

/-- The engine whose window holds a platform address, with the offset in its window (R50). -/
def routeFrom (k address : Nat) : List EngineSlot → Option (Nat × Nat)
  | [] => none
  | e :: rest =>
    if e.base ≤ address ∧ address < e.base + windowSize then some (k, address - e.base)
    else routeFrom (k + 1) address rest

/-- The engine and offset a platform address reaches; none outside every window (R50). -/
def Platform.route (p : Platform) (address : Nat) : Option (Nat × Nat) := routeFrom 0 address p.engines

/-- A 64-bit host access at a platform address joins the accesses of the engine it reaches; v is a write's
value, none a read (R50, R60). -/
def Platform.access (p : Platform) (address : Nat) (v : Option Word) : Option Platform :=
  (p.route address).map fun (k, offset) =>
    let event := match v with
      | some w => HostEvent.write 64 offset w
      | none => HostEvent.read 64 offset
    ⟨p.engines.modify k fun e => { e with core := { e.core with pending := e.core.pending ++ [event] } }⟩

/-- The bytes of a 64-bit value, least significant first. -/
def bytesOf (v : Word) : List (BitVec 8) := (List.range 8).map fun i => v.extractLsb' (8 * i) 8

/-- The bytes of an access on the bus, lane 0 first, under a byte order (R59). -/
def busLanes (order : ByteOrder) (v : Word) : List (BitVec 8) :=
  match order with
  | .littleEndian => bytesOf v
  | .bigEndian => (bytesOf v).reverse

/-- The value of bytes listed least significant first. -/
def valueOfBytes : List (BitVec 8) → Nat
  | [] => 0
  | b :: rest => b.toNat + 256 * valueOfBytes rest

/-- The register value an engine takes from the lanes of an access, under the same byte order (R59). -/
def laneValue (order : ByteOrder) (lanes : List (BitVec 8)) : Word :=
  match order with
  | .littleEndian => BitVec.ofNat 64 (valueOfBytes lanes)
  | .bigEndian => BitVec.ofNat 64 (valueOfBytes lanes.reverse)

end Sys2Proof.Machine
end

