-- ==== Sys2Proof/Safety.lean ====
section
/-! DEFINITION. What claims are stated in: the premises of a claim about a run and what is observed of it
(spec/70_reset_and_hazards.md rules R242 and R248), the invariant of the engine's registers, and states
that differ only where the spec lets nothing look (spec/10_state.md rule R35). -/

namespace Sys2Proof.Machine

/-- The premises every claim about a run takes at its end: the mark is clear and STATUS.FAULT = 0 (R248). -/
def State.RunPremise (s : State) : Prop := s.refused = false ∧ s.status.fault = false

/-- A run has ended: no access is left, or a refused action ended it (R248). -/
def State.RunEnded (s : State) : Prop := s.pending = [] ∨ s.refused = true

/-- The observation of a run: the final state of the engine, the values read, the mark (R248). -/
structure Observation where
  final   : State
  reads   : List Word
  refused : Bool
deriving DecidableEq, Repr

/-- What is observed at a state that ends a run (R248). -/
def observe (s : State) : Observation := ⟨s, s.reads, s.refused⟩

/-- The launch premise: STATUS.FAULT = 0 and no register is written (R242). -/
def State.Launch (s : State) : Prop :=
  s.status.fault = false ∧ s.din.written = false ∧ s.key.written = false ∧ s.rkin.written = false ∧
    s.dout.written = false ∧ (∀ n : Fin 16, s.rk[n].written = false) ∧ s.trace = []

/-- A record is one the engine can produce: a label of R34, reserved bits 0, ROUND 0 to 16, BOX 1 to 8 for T.SIN
and else 0, one of the six widths, and a value of that width (R30, R34). -/
def TraceRecord.Produced (r : TraceRecord) : Prop :=
  r.hdr.extractLsb' 32 32 = 0 ∧ r.hdr.extractLsb' 20 4 = 0 ∧
    1 ≤ r.label ∧ r.label ≤ 0x14 ∧ r.round ≤ 16 ∧
    (if r.label = 0x0E then 1 ≤ r.box ∧ r.box ≤ 8 else r.box = 0) ∧
    r.width ∈ [6, 28, 32, 48, 56, 64] ∧ r.val.toNat < 2 ^ r.width

/-- The invariant of the engine's registers, from the spec's prose: CAUSE is NONE exactly when FAULT is 0 (R24,
R211, R215); TRLEN is the length of a command's trace (R31, R141, R168, R186), at most 282 (R32); every
record is one the engine produces (R30, R34); the round-key file is written as a whole (R29); and a trace
stands only beside the results of the command that left it. -/
structure State.Inv (s : State) : Prop where
  causeMatchesFault : s.status.cause = .none ↔ s.status.fault = false
  traceLength       : s.trlen ∈ [0, 12, 52, 282]
  recordsProduced   : ∀ r ∈ s.trace, r.Produced
  roundKeysTogether : ∀ m n : Fin 16, s.rk[m].written = s.rk[n].written
  traceHasDout      : s.trlen = 12 ∨ s.trlen = 282 → s.dout.written = true
  traceHasKeys      : s.trlen = 52 ∨ s.trlen = 282 → s.rk[0].written = true

/-- Two registers with the same written flag, and the same value where they hold one (R35). -/
def Reg.Agree {w : Nat} (a b : Reg w) : Prop :=
  a.written = b.written ∧ (a.written = true → a.value = b.value)

/-- Two states that differ at most in the values of unwritten registers (R35). -/
structure State.Agree (s t : State) : Prop where
  din       : Reg.Agree s.din t.din
  key       : Reg.Agree s.key t.key
  rkin      : Reg.Agree s.rkin t.rkin
  dout      : Reg.Agree s.dout t.dout
  rk        : ∀ n : Fin 16, Reg.Agree s.rk[n] t.rk[n]
  status    : s.status = t.status
  trace     : s.trace = t.trace
  pending   : s.pending = t.pending
  reads     : s.reads = t.reads
  refused   : s.refused = t.refused
  drawCount : s.drawCount = t.drawCount
  drawSource : s.drawSource = t.drawSource

/-- The operand registers a command reads are written (R216, the table of operands checked). -/
def operandsWritten (i : Instr) (s : State) : Bool :=
  match i with
  | .nop => true
  | .permIp => s.din.written
  | .permFp => s.din.written
  | .permE => s.din.written
  | .permP => s.din.written
  | .permPc1 => s.din.written
  | .permPc2 => s.din.written
  | .ksched => s.key.written
  | .roundf => s.din.written && s.rkin.written
  | .encrypt => s.din.written && s.key.written

/-- Two states hold the same in what the command i reads: the operand bits of R85's table and the written flags
of the registers they stand in (R36, R85, R191). -/
def SameReads (i : Instr) (s t : State) : Prop :=
  match i with
  | .nop => True
  | .permIp => s.din = t.din
  | .permFp => s.din = t.din
  | .permE => s.din.written = t.din.written ∧ s.din.value.setWidth 32 = t.din.value.setWidth 32
  | .permP => s.din.written = t.din.written ∧ s.din.value.setWidth 32 = t.din.value.setWidth 32
  | .permPc1 => s.din = t.din
  | .permPc2 => s.din.written = t.din.written ∧ s.din.value.setWidth 56 = t.din.value.setWidth 56
  | .ksched => s.key = t.key
  | .roundf => s.din.written = t.din.written ∧ s.din.value.setWidth 32 = t.din.value.setWidth 32 ∧ s.rkin = t.rkin
  | .encrypt => s.din = t.din ∧ s.key = t.key

/-- The positions of a key that PC-1 never reads: 8, 16, 24, 32, 40, 48, 56, 64 (R106, R138). -/
def parityPositions : List Nat := [8, 16, 24, 32, 40, 48, 56, 64]

end Sys2Proof.Machine
end

