-- ==== Sys2Proof/Certificates/Slice0/Obligations.lean ====
section
/-! DEFINITION. The statements for the provers. Each docstring names the rule of spec/ it formalises. -/

open Sys2Proof Sys2Proof.Machine

/-- The next action of a run that has not ended is e, and rest comes after it. -/
def Sys2Proof.Claims.NextAction (s : State) (e : HostEvent) (rest : List HostEvent) : Prop :=
  s.refused = false ∧ s.pending = e :: rest

/-- The values of v[7:0] that R82 lists. -/
def Sys2Proof.Claims.legalCodes : List Nat := [0x00, 0x10, 0x11, 0x12, 0x13, 0x14, 0x15, 0x20, 0x30, 0x40]

/-- The cumulative row of R134. -/
def Sys2Proof.Claims.cumulativeShifts : List Nat := [1, 2, 4, 6, 8, 10, 12, 14, 15, 17, 19, 21, 23, 25, 27, 28]

/-- The twelve records R168 lists, standing in a trace from index `at0` on with ROUND n (also R186). -/
def Sys2Proof.Claims.FRecordsAt (tr : List TraceRecord) (at0 n : Nat) (fv : FValues) : Prop :=
  tr[at0]? = some (traceRecord .exp n 0 fv.exp) ∧
  tr[at0 + 1]? = some (traceRecord .xor n 0 fv.x) ∧
  (∀ b, 1 ≤ b → b ≤ 8 → tr[at0 + 1 + b]? = some (traceRecord .sin n b (span fv.x (6 * b - 5) 6))) ∧
  tr[at0 + 10]? = some (traceRecord .sout n 0 fv.sout) ∧
  tr[at0 + 11]? = some (traceRecord .pout n 0 fv.pout)

/-- The three records of each round of the schedule, from index `at0` on (R141, R186). -/
def Sys2Proof.Claims.KeyRecordsAt (tr : List TraceRecord) (at0 : Nat) (key : Word) : Prop :=
  ∀ n, 1 ≤ n → n ≤ 16 → ∃ r, (ks key).rounds[n - 1]? = some r ∧
    tr[at0 + 3 * (n - 1)]? = some (traceRecord .cn n 0 r.c) ∧
    tr[at0 + 3 * (n - 1) + 1]? = some (traceRecord .dn n 0 r.d) ∧
    tr[at0 + 3 * (n - 1) + 2]? = some (traceRecord .kn n 0 r.k)

/-- L and R are the half-blocks of the encryption of pt under ky, before round 1 (index 0) and after each
round n (R181, R183). -/
def Sys2Proof.Claims.Halves (pt ky : Word) (L R : Nat → Half) : Prop :=
  L 0 = span (permute ipTable pt) 1 32 ∧ R 0 = span (permute ipTable pt) 33 32 ∧
  ∀ n, n < 16 → ∃ k, (ks ky).rounds[n]? = some k ∧
    L (n + 1) = R n ∧ R (n + 1) = L n ^^^ (feistel (R n) k.k).pout

/-- RK[1..16] of a state are written and hold the round keys of a key (R29, R141, R188). -/
def Sys2Proof.Claims.HoldsRoundKeys (s : State) (key : Word) : Prop :=
  ∀ n : Fin 16, ∃ r, (ks key).rounds[n.val]? = some r ∧ s.rk[n] = ⟨r.k, true⟩

/-- What R109 says of the PERM command i with table T: the fault, or DOUT position by position. -/
def Sys2Proof.Claims.PermRule {win wout : Nat} (i : Instr) (T : PermTable win wout) : Prop :=
  ∀ s : State,
    (s.din.written = false → s.status.fault = false →
      exec i s = .next { s with status := ⟨true, .unwrittenOperand⟩ }) ∧
    (s.din.written = true → ∃ r : BitVec wout,
      (∀ k, 1 ≤ k → k ≤ wout → ∃ t, T.entries[k - 1]? = some t ∧ pos r k = pos (s.din.value.setWidth win) t) ∧
      exec i s = .next { s with trace := [], dout := ⟨r.setWidth 64, true⟩ })

/-- C0 and D0 of a key are each all zeros or all ones (R140). -/
def Sys2Proof.Claims.ConstantHalves (key : Word) : Prop :=
  ((ks key).c0 = 0 ∨ (ks key).c0 = BitVec.allOnes 28) ∧ ((ks key).d0 = 0 ∨ (ks key).d0 = BitVec.allOnes 28)

/-- X, SOUT and POUT of an application of f (R157). -/
def Sys2Proof.Claims.FGives (r : Half) (k : RoundKey) (x : BitVec 48) (sout pout : Half) : Prop :=
  (feistel r k).x = x ∧ (feistel r k).sout = sout ∧ (feistel r k).pout = pout

open Sys2Proof.Claims

/-! ### Encoding -/

/-- R82, a sanity check: the words of the opcode map decode to their commands. -/
def Obligations.OpcodeMapWordsDecode : Prop :=
  decode 0x00 = .ok .nop ∧ decode 0x10 = .ok .permIp ∧ decode 0x11 = .ok .permFp ∧ decode 0x12 = .ok .permE ∧
  decode 0x13 = .ok .permP ∧ decode 0x14 = .ok .permPc1 ∧ decode 0x15 = .ok .permPc2 ∧
  decode 0x20 = .ok .ksched ∧ decode 0x30 = .ok .roundf ∧ decode 0x40 = .ok .encrypt

/-- R81, R82: decode and encode agree both ways, so each command has exactly one word. -/
def Obligations.DecodeEncodeAgree : Prop :=
  ∀ (v : Word) (i : Instr), decode v = .ok i ↔ v = encode i

/-- R80, R86: a word decodes exactly when its ZERO, MAJOR and MINOR fields are well formed. -/
def Obligations.DecodedExactlyWhenWellFormed : Prop :=
  ∀ v : Word, (∃ i, decode v = .ok i) ↔ (fieldsOf v).wellFormed = true

/-- R83, R212: a reserved value written to CMD of an engine that is not faulted raises ILLEGAL_CMD and does
nothing else. -/
def Obligations.ReservedCommandRaisesIllegalCmd : Prop :=
  ∀ (s : State) (v : Word) (rest : List HostEvent),
    NextAction s (.write 64 0x000 v) rest → s.status.fault = false → v.toNat ∉ legalCodes →
      step s = .next { s with pending := rest, status := ⟨true, .illegalCmd⟩ }

/-! ### Steps and commands -/

/-- R81: a step whose next action writes a legal word to CMD of an engine that is not faulted is exec of the
decoded command, at the state with that action taken from the host's list. -/
def Obligations.StepRunsDecodedCommand : Prop :=
  ∀ (s : State) (v : Word) (rest : List HostEvent) (i : Instr),
    NextAction s (.write 64 0x000 v) rest → s.status.fault = false → decode v = .ok i →
      step s = exec i { s with pending := rest }

/-- R217: the four cases of a write to CMD, in order. -/
def Obligations.CommandWritePriority : Prop :=
  ∀ (s : State) (v : Word) (rest : List HostEvent), NextAction s (.write 64 0x000 v) rest →
    (s.status.fault = true → step s = .next { s with pending := rest }) ∧
    (s.status.fault = false → v.toNat ∉ legalCodes →
      step s = .next { s with pending := rest, status := ⟨true, .illegalCmd⟩ }) ∧
    (∀ i, s.status.fault = false → v = encode i → operandsWritten i s = false →
      step s = .next { s with pending := rest, status := ⟨true, .unwrittenOperand⟩ }) ∧
    (∀ i, s.status.fault = false → v = encode i → operandsWritten i s = true →
      ∃ t, step s = .next t ∧ exec i { s with pending := rest } = .next t ∧ t.status = s.status)

/-- R216, R219: a command with an unwritten operand raises UNWRITTEN_OPERAND and writes nothing else; with its
operands written it raises nothing, and NOP never raises. -/
def Obligations.UnwrittenOperandRaisesBeforeAnyWrite : Prop :=
  ∀ (i : Instr) (s : State),
    (s.status.fault = false → operandsWritten i s = false →
      exec i s = .next { s with status := ⟨true, .unwrittenOperand⟩ }) ∧
    (operandsWritten i s = true → ∃ t, exec i s = .next t ∧ t.status = s.status)

/-- R85: what each command may change; everything else is as it was. -/
def Obligations.CommandsWriteOnlyTheirResults : Prop :=
  ∀ (i : Instr) (s : State), ∃ t, exec i s = .next t ∧
    t.din = s.din ∧ t.key = s.key ∧ t.rkin = s.rkin ∧
    t.pending = s.pending ∧ t.reads = s.reads ∧ t.refused = s.refused ∧ t.drawCount = s.drawCount ∧
    t.drawSource = s.drawSource ∧
    (i = .nop → t = s) ∧
    (i = .ksched → t.dout = s.dout) ∧
    (i ≠ .ksched → i ≠ .encrypt → t.rk = s.rk) ∧
    (operandsWritten i s = true → t.status = s.status) ∧
    (operandsWritten i s = false → t = { s with status := t.status })

/-- R85, R191: a command's results depend on the operand bits it reads (and STATUS) alone: from two states that
agree on those, each result register gets the same value in both, or is left alone in both. -/
def Obligations.ResultsDependOnOperandsOnly : Prop :=
  ∀ (i : Instr) (s t : State), SameReads i s t → s.status = t.status →
    ∃ s' t', exec i s = .next s' ∧ exec i t = .next t' ∧ s'.status = t'.status ∧
      (s'.dout = t'.dout ∨ s'.dout = s.dout ∧ t'.dout = t.dout) ∧
      (s'.rk = t'.rk ∨ s'.rk = s.rk ∧ t'.rk = t.rk) ∧
      (s'.trace = t'.trace ∨ s'.trace = s.trace ∧ t'.trace = t.trace)

/-- R56, R191: repeating a command with unchanged operands changes nothing more. -/
def Obligations.RepeatedCommandChangesNothing : Prop :=
  ∀ (i : Instr) (s : State), ∃ t, exec i s = .next t ∧ exec i t = .next t

/-- R189: NOP has no effect, in any state; a word whose low byte is NOP's and whose bits 63:8 are not all 0 is
not NOP and raises ILLEGAL_CMD. -/
def Obligations.NopHasNoEffect : Prop :=
  (∀ s : State, exec .nop s = .next s) ∧
  (∀ (s : State) (rest : List HostEvent), NextAction s (.write 64 0x000 0x00) rest →
    step s = .next { s with pending := rest }) ∧
  (∀ (s : State) (v : Word) (rest : List HostEvent), NextAction s (.write 64 0x000 v) rest →
    s.status.fault = false → v.toNat % 256 = 0 → v.toNat ≠ 0 →
      step s = .next { s with pending := rest, status := ⟨true, .illegalCmd⟩ })

/-! ### Permutation Engine -/

/-- R100, R109: each PERM command puts position T[k] of its operand at position k of DOUT, zero-extends, clears
the trace and changes nothing else; with DIN unwritten it raises UNWRITTEN_OPERAND; the selectors 6 to 15
are no command. -/
def Obligations.PermCommandsPermuteDin : Prop :=
  PermRule .permIp ipTable ∧ PermRule .permFp fpTable ∧ PermRule .permE eTable ∧
  PermRule .permP pTable ∧ PermRule .permPc1 pc1Table ∧ PermRule .permPc2 pc2Table ∧
  ∀ m, 6 ≤ m → m ≤ 15 → decode (BitVec.ofNat 64 (0x10 + m)) = .error .reservedSelector

/-- R108, R111: FP undoes IP and IP undoes FP. -/
def Obligations.FinalPermutationInvertsInitial : Prop :=
  (∀ x : Word, permute fpTable (permute ipTable x) = x) ∧ (∀ x : Word, permute ipTable (permute fpTable x) = x)

/-- R101: permute of all zeros is all zeros and of all ones is all ones, for every table. -/
def Obligations.PermuteKeepsConstants : Prop :=
  ∀ (win wout : Nat) (T : PermTable win wout),
    permute T (0 : BitVec win) = 0 ∧ permute T (BitVec.allOnes win) = BitVec.allOnes wout

/-! ### Key schedule -/

/-- R133: rotl28 position by position and in the integer view; it keeps the number of 1 bits; its corner cases. -/
def Obligations.RotlMovesPositionsLeft : Prop :=
  (∀ (v : KeyHalf) (s : Nat), s = 1 ∨ s = 2 →
    (∀ k, 1 ≤ k → k ≤ 28 → pos (rotl28 v s) k = pos v ((k - 1 + s) % 28 + 1)) ∧
    (rotl28 v s).toNat = ((v.toNat <<< s) ||| (v.toNat >>> (28 - s))) &&& 0xFFFFFFF ∧
    (bitsOf (rotl28 v s)).count true = (bitsOf v).count true ∧
    rotl28 0xFFFFFFF s = 0xFFFFFFF ∧ rotl28 0 s = 0) ∧
  rotl28 0x8000000 1 = 0x0000001 ∧ rotl28 0x8000000 2 = 0x0000002 ∧
  rotl28 0xC000000 2 = 0x0000003 ∧ rotl28 0x0000001 1 = 0x0000002

/-- R131, R132, R136, R137: the schedule in full. C0 and D0 are the halves of PC-1; round n rotates the halves
of the round before it by SHIFT[n], which is 1 in the rounds 1, 2, 9 and 16 and else 2; its key is PC-2 of
Cn ‖ Dn; there are sixteen rounds. -/
def Obligations.KeyScheduleInFull : Prop :=
  (∀ n, 1 ≤ n → n ≤ 16 → shiftSchedule[n - 1]? = some (if n ∈ [1, 2, 9, 16] then 1 else 2)) ∧
  ∀ key : Word, (ks key).pc1out = permute pc1Table key ∧
    (ks key).c0 = span (ks key).pc1out 1 28 ∧ (ks key).d0 = span (ks key).pc1out 29 28 ∧
    (ks key).rounds.length = 16 ∧
    ∀ n, 1 ≤ n → n ≤ 16 → ∃ r c d sh, (ks key).rounds[n - 1]? = some r ∧
      (n = 1 → c = (ks key).c0 ∧ d = (ks key).d0) ∧
      (2 ≤ n → ∃ q, (ks key).rounds[n - 2]? = some q ∧ c = q.c ∧ d = q.d) ∧
      shiftSchedule[n - 1]? = some sh ∧
      r.n = n ∧ r.c = rotl28 c sh ∧ r.d = rotl28 d sh ∧ r.k = permute pc2Table (r.c ++ r.d)

/-- R134's cumulative row and R135's inference from it: the halves of round n are C0 and D0 rotated by the sum of
the first n shifts. The spec marks both as its own inference. -/
def Obligations.KeyRotationsAddUp : Prop :=
  ∀ (key : Word) (n : Nat), 1 ≤ n → n ≤ 16 → ∃ r m, (ks key).rounds[n - 1]? = some r ∧
    cumulativeShifts[n - 1]? = some m ∧ m = (shiftSchedule.take n).sum ∧
    r.c = (ks key).c0.rotateLeft m ∧ r.d = (ks key).d0.rotateLeft m

/-- R140: the schedule returns to its start, and constant halves give sixteen equal round keys. -/
def Obligations.KeyScheduleReturnsToStart : Prop :=
  (∀ key : Word, ∃ r, (ks key).rounds[15]? = some r ∧ r.c = (ks key).c0 ∧ r.d = (ks key).d0) ∧
  (∀ key : Word, ConstantHalves key → ∀ m n : Fin 16, (roundKeys key)[m] = (roundKeys key)[n]) ∧
  ConstantHalves 0x0101010101010101 ∧ ConstantHalves 0xFEFEFEFEFEFEFEFE ∧
  ConstantHalves 0x1F1F1F1F0E0E0E0E ∧ ConstantHalves 0xE0E0E0E0F1F1F1F1

/-- R138: keys that differ only in parity positions give the same schedule, the same ciphertexts and the same
traces but for the T.KEY record, and no key is turned away for its parity. -/
def Obligations.ParityPositionsIgnored : Prop :=
  ∀ k k' : Word, (∀ p, 1 ≤ p → p ≤ 64 → p ∉ parityPositions → pos k p = pos k' p) →
    ks k = ks k' ∧
    (∀ pt : Word, (desEncrypt pt k).ct = (desEncrypt pt k').ct) ∧
    (∀ j, j ≠ 0 → (kschedRecords k)[j]? = (kschedRecords k')[j]?) ∧
    (∀ (pt : Word) (j : Nat), j ≠ 1 → (encryptRecords pt k)[j]? = (encryptRecords pt k')[j]?) ∧
    ∀ s : State, ∃ t t', exec .ksched (s.setKey k) = .next t ∧ exec .ksched (s.setKey k') = .next t' ∧
      t.rk = t'.rk ∧ t.status = s.status ∧ t'.status = s.status

/-- R141: KSCHED. With KEY unwritten it raises; with KEY written it writes RK[1..16] and its 52 records and
nothing else; it does not use the parity positions. The last clauses are the rule's corner cases and
example. -/
def Obligations.KschedWritesRoundKeysAndTrace : Prop :=
  (∀ s : State,
    (s.key.written = false → s.status.fault = false →
      exec .ksched s = .next { s with status := ⟨true, .unwrittenOperand⟩ }) ∧
    (s.key.written = true → ∃ t, exec .ksched s = .next t ∧ t = { s with rk := t.rk, trace := t.trace } ∧
      HoldsRoundKeys t s.key.value ∧ t.trlen = 52 ∧
      t.trace[0]? = some (traceRecord .key 0 0 s.key.value) ∧
      t.trace[1]? = some (traceRecord .pc1out 0 0 (permute pc1Table s.key.value)) ∧
      t.trace[2]? = some (traceRecord .c0 0 0 (span (permute pc1Table s.key.value) 1 28)) ∧
      t.trace[3]? = some (traceRecord .d0 0 0 (span (permute pc1Table s.key.value) 29 28)) ∧
      KeyRecordsAt t.trace 4 s.key.value)) ∧
  (∀ k k' : Word, (∀ p, 1 ≤ p → p ≤ 64 → p ∉ parityPositions → pos k p = pos k' p) → ks k = ks k') ∧
  (∀ n : Fin 16, (roundKeys 0)[n] = 0 ∧ (roundKeys (BitVec.allOnes 64))[n] = 0xFFFFFFFFFFFF ∧
    (roundKeys 0x0101010101010101)[n] = 0 ∧ (roundKeys 0x1F1F1F1F0E0E0E0E)[n] = 0x000000FFFFFF) ∧
  permute pc1Table 0x8000000000000000 = 0x01000000000000 ∧
  (roundKeys 0x8000000000000000)[7] = 0 ∧ (roundKeys 0x8000000000000000)[14] = 0 ∧
  (roundKeys 0x133457799BBCDEF1)[0] = 0x1B02EFFC7072 ∧ (roundKeys 0x133457799BBCDEF1)[15] = 0xCB3D8B0E17F5 ∧
  (ks 0x133457799BBCDEF1).c0 = 0xF0CCAAF ∧ (ks 0x133457799BBCDEF1).d0 = 0x556678F

/-! ### Round function -/

/-- R153, R154, R155: the four positions of SOUT that S-box b gives are the entry of that box at the row and
column of block b, by position and in the integer view. -/
def Obligations.SubstitutionLooksUpEachBox : Prop :=
  ∀ (x : BitVec 48) (b : Fin 8), ∃ (row : Fin 4) (col : Fin 16),
    let B := span x (6 * b.val + 1) 6
    let beta := B.toNat
    row.val = 2 * (pos B 1).toNat + (pos B 6).toNat ∧
    col.val = 8 * (pos B 2).toNat + 4 * (pos B 3).toNat + 2 * (pos B 4).toNat + (pos B 5).toNat ∧
    row.val = ((beta >>> 4) &&& 2) ||| (beta &&& 1) ∧ col.val = (beta >>> 1) &&& 0xF ∧
    span (substitute x) (4 * b.val + 1) 4 = (sboxes[b])[row][col]

/-- R154, R166, R167: each row of each S-box holds each 4-bit value exactly once; changing one input bit changes
at least two output bits; the 64 inputs go one-to-one onto the 64 pairs of a row and a column. -/
def Obligations.SubstitutionBoxProperties : Prop :=
  (∀ (b : Fin 8) (row : Fin 4) (v : BitVec 4), ∃ col : Fin 16, ∀ c : Fin 16, (sboxes[b])[row][c] = v ↔ c = col) ∧
  (∀ (b : Fin 8) (B : BitVec 6) (i : Fin 6),
    2 ≤ (bitsOf (sboxLookup sboxes[b] B ^^^ sboxLookup sboxes[b] (B ^^^ BitVec.twoPow 6 i.val))).count true) ∧
  ∀ (row : Fin 4) (col : Fin 16), ∃ B : BitVec 6, ∀ B' : BitVec 6, (rowOf B' = row ∧ colOf B' = col) ↔ B' = B

/-- R151, R156: f expands R by E, mixes the key in, substitutes, and permutes by P (R152 and R157 give the
same steps). -/
def Obligations.RoundFunctionInFull : Prop :=
  ∀ (r : Half) (k : RoundKey), (feistel r k).exp = permute eTable r ∧ (feistel r k).x = permute eTable r ^^^ k ∧
    (feistel r k).sout = substitute (feistel r k).x ∧ (feistel r k).pout = permute pTable (feistel r k).sout ∧
    (∀ b : Fin 8, sboxInput (feistel r k).x b = span (permute eTable r ^^^ k) (6 * b.val + 1) 6)

/-- R157's inference: f depends on R and K only through E(R) ⊕ K, so complementing both changes nothing. -/
def Obligations.RoundFunctionReadsTheMixOnly : Prop :=
  (∀ (r r' : Half) (k k' : RoundKey), permute eTable r ^^^ k = permute eTable r' ^^^ k' →
    (feistel r k).x = (feistel r' k').x ∧ (feistel r k).sout = (feistel r' k').sout ∧
      (feistel r k).pout = (feistel r' k').pout) ∧
  ∀ (r : Half) (k : RoundKey), (feistel r k).pout = (feistel (~~~r) (~~~k)).pout

/-- R168: ROUNDF. With DIN or RKIN unwritten it raises; else it writes f(DIN[31:0], RKIN) to DOUT, its twelve
records, and nothing else. The last clauses are the rule's corner cases and example. -/
def Obligations.RoundfWritesFeistelValueAndTrace : Prop :=
  (∀ s : State,
    (s.din.written = false ∨ s.rkin.written = false → s.status.fault = false →
      exec .roundf s = .next { s with status := ⟨true, .unwrittenOperand⟩ }) ∧
    (s.din.written = true → s.rkin.written = true → ∃ t, exec .roundf s = .next t ∧
      t = { s with dout := t.dout, trace := t.trace } ∧
      t.dout = ⟨(feistel (s.din.value.setWidth 32) s.rkin.value).pout.setWidth 64, true⟩ ∧
      t.trlen = 12 ∧ FRecordsAt t.trace 0 0 (feistel (s.din.value.setWidth 32) s.rkin.value))) ∧
  FGives 0 0 0 0xEFA72C4D 0xD8D8DBBC ∧ FGives 0xFFFFFFFF 0xFFFFFFFFFFFF 0 0xEFA72C4D 0xD8D8DBBC ∧
  FGives 0xFFFFFFFF 0 0xFFFFFFFFFFFF 0xD9CE3DCB 0x38DBF9CB ∧
  FGives 0 0xFFFFFFFFFFFF 0xFFFFFFFFFFFF 0xD9CE3DCB 0x38DBF9CB ∧
  FGives 0xF0AAF0AA 0x1B02EFFC7072 0x6117BA866527 0x5C82B597 0x234AA9BB ∧
  permute eTable 0xF0AAF0AA = 0x7A15557A1555 ∧
  sboxInput 0x6117BA866527 0 = 0x18 ∧ sboxInput 0x6117BA866527 1 = 0x11 ∧ sboxInput 0x6117BA866527 2 = 0x1E ∧
  sboxInput 0x6117BA866527 3 = 0x3A ∧ sboxInput 0x6117BA866527 4 = 0x21 ∧ sboxInput 0x6117BA866527 5 = 0x26 ∧
  sboxInput 0x6117BA866527 6 = 0x14 ∧ sboxInput 0x6117BA866527 7 = 0x27

/-! ### Encryption pipeline -/

/-- R181 to R185: the ciphertext is FP of R16 ‖ L16, where the halves start as the two halves of IP(PT) and
every round n sets Ln to R(n-1) and Rn to L(n-1) ⊕ f(R(n-1), Kn). -/
def Obligations.EncryptionFollowsFeistelRounds : Prop :=
  ∀ pt ky : Word, ∃ L R : Nat → Half, Halves pt ky L R ∧
    (desEncrypt pt ky).pre = R 16 ++ L 16 ∧ (desEncrypt pt ky).ct = permute fpTable (R 16 ++ L 16)

/-- R188: ENCRYPT. With DIN or KEY unwritten it raises; else it writes the ciphertext to DOUT, the round keys to
RK[1..16], 282 records to the trace, and nothing else. The last clauses are the rule's corner cases and
examples; the complementation law is a statement of its own. -/
def Obligations.EncryptWritesCiphertextKeysAndTrace : Prop :=
  (∀ s : State,
    (s.din.written = false ∨ s.key.written = false → s.status.fault = false →
      exec .encrypt s = .next { s with status := ⟨true, .unwrittenOperand⟩ }) ∧
    (s.din.written = true → s.key.written = true → ∃ t, exec .encrypt s = .next t ∧
      t = { s with dout := t.dout, rk := t.rk, trace := t.trace } ∧
      t.dout = ⟨(desEncrypt s.din.value s.key.value).ct, true⟩ ∧
      HoldsRoundKeys t s.key.value ∧ t.trlen = 282)) ∧
  (desEncrypt 0 0).ct = 0x8CA64DE9C1B123A7 ∧
  (desEncrypt (BitVec.allOnes 64) (BitVec.allOnes 64)).ct = 0x7359B2163E4EDC58 ∧
  (desEncrypt 0x0123456789ABCDEF 0x133457799BBCDEF1).ct = 0x85E813540F0AB405 ∧
  (desEncrypt 0x0123456789ABCDEF 0x133457799BBCDEF7).ct = 0x278ABEE36638490E

/-- R186: the ENCRYPT trace, record by record. -/
def Obligations.EncryptTraceLayout : Prop :=
  ∀ s : State, s.din.written = true → s.key.written = true →
    ∃ t L R, exec .encrypt s = .next t ∧ Halves s.din.value s.key.value L R ∧ t.trlen = 282 ∧
      t.trace[0]? = some (traceRecord .pt 0 0 s.din.value) ∧
      t.trace[1]? = some (traceRecord .key 0 0 s.key.value) ∧
      t.trace[2]? = some (traceRecord .ipout 0 0 (permute ipTable s.din.value)) ∧
      t.trace[3]? = some (traceRecord .l0 0 0 (L 0)) ∧
      t.trace[4]? = some (traceRecord .r0 0 0 (R 0)) ∧
      t.trace[5]? = some (traceRecord .pc1out 0 0 (permute pc1Table s.key.value)) ∧
      t.trace[6]? = some (traceRecord .c0 0 0 (span (permute pc1Table s.key.value) 1 28)) ∧
      t.trace[7]? = some (traceRecord .d0 0 0 (span (permute pc1Table s.key.value) 29 28)) ∧
      KeyRecordsAt t.trace 8 s.key.value ∧
      (∀ n, 1 ≤ n → n ≤ 16 → ∃ k, (ks s.key.value).rounds[n - 1]? = some k ∧
        FRecordsAt t.trace (56 + 14 * (n - 1)) n (feistel (R (n - 1)) k.k) ∧
        t.trace[68 + 14 * (n - 1)]? = some (traceRecord .rnew n 0 (R n)) ∧
        t.trace[69 + 14 * (n - 1)]? = some (traceRecord .lnew n 0 (L n))) ∧
      t.trace[280]? = some (traceRecord .pre 0 0 (R 16 ++ L 16)) ∧
      t.trace[281]? = some (traceRecord .ct 0 0 (permute fpTable (R 16 ++ L 16)))

/-- R188's complementation law: complementing the block and the key complements the ciphertext. -/
def Obligations.EncryptionComplementation : Prop :=
  ∀ pt ky : Word, (desEncrypt (~~~pt) (~~~ky)).ct = ~~~(desEncrypt pt ky).ct

/-- 95_test_vectors.md section 4: a key whose sixteen round keys are equal undoes itself. -/
def Obligations.EqualRoundKeysUndoThemselves : Prop :=
  ∀ ky : Word, (∀ m n : Fin 16, (roundKeys ky)[m] = (roundKeys ky)[n]) →
    ∀ pt : Word, (desEncrypt (desEncrypt pt ky).ct ky).ct = pt

/-! ### Trace buffer -/

/-- R30, R32: an append writes record TRLEN and no other, and advances TRLEN by one; the header's fields are
where R30 puts them, its reserved bits are 0, and the value is zero-extended. No command's trace exceeds
282 records. -/
def Obligations.TraceAppendWritesNextRecord : Prop :=
  (∀ (s : State) (w : Nat) (lbl : Label) (rnd box : Nat) (v : BitVec w), rnd < 256 → box < 16 → w ≤ 64 →
    ∃ t r, s.traceAppend (traceRecord lbl rnd box v) = t ∧ t = { s with trace := t.trace } ∧
      t.trace[s.trlen]? = some r ∧ t.trlen = s.trlen + 1 ∧ (∀ j, j < s.trlen → t.trace[j]? = s.trace[j]?) ∧
      r.hdr.toNat = w * 2 ^ 24 + box * 2 ^ 16 + rnd * 2 ^ 8 + lbl.code.toNat ∧ r.val.toNat = v.toNat) ∧
  ∀ (i : Instr) (s : State), ∃ t, exec i s = .next t ∧ (t.trlen ≤ 282 ∨ t.trace = s.trace)

/-- R31, R109, R141, R168, R186: the length of the trace each command that runs leaves: 0 after a PERM command, 52
after KSCHED, 12 after ROUNDF, 282 after ENCRYPT; NOP leaves the trace as it was. -/
def Obligations.CommandTraceLengths : Prop :=
  ∀ (i : Instr) (s : State), operandsWritten i s = true → ∃ t, exec i s = .next t ∧
    (i = .nop → t.trace = s.trace) ∧
    (i ∈ [Instr.permIp, .permFp, .permE, .permP, .permPc1, .permPc2] → t.trlen = 0) ∧
    (i = .ksched → t.trlen = 52) ∧ (i = .roundf → t.trlen = 12) ∧ (i = .encrypt → t.trlen = 282)

/-! ### Host accesses -/

/-- R51: the register map: each register's offset, and the reserved ranges. -/
def Obligations.RegisterMapSlots : Prop :=
  (offsetOf .cmd = 0x000 ∧ offsetOf .status = 0x008 ∧ offsetOf .din = 0x010 ∧ offsetOf .key = 0x018 ∧
    offsetOf .rkin = 0x020 ∧ offsetOf .dout = 0x028 ∧ offsetOf .trlen = 0x030 ∧
    (∀ n, offsetOf (.rk n) = 0x080 + 8 * n.val) ∧
    ∀ j, offsetOf (.trhdr j) = 0x1000 + 16 * j.val ∧ offsetOf (.trval j) = 0x1008 + 16 * j.val) ∧
  (∀ r, regAt (offsetOf r) = some r ∧ offsetOf r % 8 = 0 ∧ offsetOf r < 0x3000) ∧
  (∀ off, off % 8 = 0 → off < 0x3000 →
    (regAt off = none ↔ (0x038 ≤ off ∧ off ≤ 0x07F) ∨ (0x100 ≤ off ∧ off ≤ 0xFFF) ∨ (0x21A0 ≤ off ∧ off ≤ 0x2FFF))) ∧
  ∀ off r, off % 8 = 0 → regAt off = some r → off = offsetOf r

/-- R27, R52: a host write to DIN or KEY stores v and marks the register written, one to RKIN stores v[47:0], one
to CMD issues the command as one step (R81: a faulted engine ignores it, a reserved value raises); any
other legal write changes nothing (R55). No write stops the machine. -/
def Obligations.HostWriteStoresOrIssues : Prop :=
  ∀ (s : State) (off : Nat) (v : Word) (rest : List HostEvent),
    NextAction s (.write 64 off v) rest → off % 8 = 0 → off < 0x3000 →
    (∃ t, step s = .next t) ∧
    (off = 0x010 → step s = .next { s with pending := rest, din := ⟨v, true⟩ }) ∧
    (off = 0x018 → step s = .next { s with pending := rest, key := ⟨v, true⟩ }) ∧
    (off = 0x020 → step s = .next { s with pending := rest, rkin := ⟨v.extractLsb' 0 48, true⟩ }) ∧
    (off = 0x000 → s.status.fault = true → step s = .next { s with pending := rest }) ∧
    (off = 0x000 → s.status.fault = false → v.toNat ∉ legalCodes →
      step s = .next { s with pending := rest, status := ⟨true, .illegalCmd⟩ }) ∧
    (off = 0x000 → ∀ i, v = encode i → s.status.fault = false → step s = exec i { s with pending := rest }) ∧
    (off ∉ [0x000, 0x010, 0x018, 0x020] → step s = .next { s with pending := rest })

/-- R24, R53: the value a host read of each register returns, where it has one; where it has none it returns some
64-bit value (R55; which one is left open here). No register changes. -/
def Obligations.HostReadReturnsRegister : Prop :=
  ∀ (s : State) (r : RegName) (rest : List HostEvent), NextAction s (.read 64 (offsetOf r)) rest →
    let gives (v : Word) := step s = .next { s with pending := rest, reads := s.reads ++ [v] }
    (r = .cmd → gives 0) ∧
    (r = .status → ∃ v : Word, gives v ∧ v.getLsbD 0 = s.status.fault ∧
      v.extractLsb' 1 3 = s.status.cause.code ∧ v.extractLsb' 4 60 = 0) ∧
    (r = .din → s.din.written = true → gives s.din.value) ∧
    (r = .key → s.key.written = true → gives s.key.value) ∧
    (r = .rkin → s.rkin.written = true → gives (s.rkin.value.setWidth 64)) ∧
    (r = .dout → s.dout.written = true → gives s.dout.value) ∧
    (r = .trlen → gives (BitVec.ofNat 64 s.trlen)) ∧
    (∀ n, r = .rk n → s.rk[n].written = true → gives (s.rk[n].value.setWidth 64)) ∧
    (∀ j x, r = .trhdr j → s.trace[j.val]? = some x → gives x.hdr) ∧
    (∀ j x, r = .trval j → s.trace[j.val]? = some x → gives x.val) ∧
    (registerValue r s = none → ∃ v n, step s = .next { s with
      pending := rest, reads := s.reads ++ [v], drawCount := n })

/-- R55: a write to a read-only register or a reserved offset is ignored; a read of a reserved offset, of an
unwritten register or of a record at an index at or beyond TRLEN observes the next draw, whatever its
value, and the next such read another. That a draw is the free value Config.draw at the engine's
source and a counter is the model's choice (log entry 3). -/
def Obligations.UndefinedAccessesDrawOrIgnore : Prop :=
  ∀ (s : State) (off : Nat) (rest : List HostEvent), off % 8 = 0 → off < 0x3000 →
    (∀ v, NextAction s (.write 64 off v) rest →
      regAt off = none ∨ (∃ r, regAt off = some r ∧ r ∉ [RegName.cmd, .din, .key, .rkin]) →
        step s = .next { s with pending := rest }) ∧
    (NextAction s (.read 64 off) rest →
      regAt off = none ∨
      (regAt off = some .din ∧ s.din.written = false) ∨ (regAt off = some .key ∧ s.key.written = false) ∨
      (regAt off = some .rkin ∧ s.rkin.written = false) ∨ (regAt off = some .dout ∧ s.dout.written = false) ∨
      (∃ n, regAt off = some (.rk n) ∧ s.rk[n].written = false) ∨
      (∃ j, (regAt off = some (.trhdr j) ∨ regAt off = some (.trval j)) ∧ s.trlen ≤ j.val) →
        step s = .next { s with
          pending := rest, reads := s.reads ++ [Config.draw s.drawSource s.drawCount], drawCount := s.drawCount + 1 })

/-- R54, R222: each refused host action sets the mark and changes nothing else; a legal access never sets it;
a bits_to_hex of a width that is no multiple of 4 is one refused action, and of any other width reaches no
register; a mark once set stays set. That the mark is a next state which changes nothing else is the model's reading
(log entry 4). -/
def Obligations.RefusedActionsSetTheMark : Prop :=
  (∀ (s : State) (e : HostEvent) (rest : List HostEvent), NextAction s e rest →
    ((∃ bits off v, (e = .write bits off v ∨ e = .read bits off) ∧ ¬(bits = 64 ∧ off % 8 = 0 ∧ off < 0x3000)) ∨
     (∃ r text, [e] = expandLine (.ldtext r text) ∧ (text.length ≠ 8 ∨ ∃ c ∈ text, 255 < c.toNat)) ∨
     (∃ bs, [e] = expandAction (.toHex bs) ∧ bs.length % 4 ≠ 0) ∨
     (∃ r h, [e] = expandLine (.ldhex r h) ∧ (h.length ≠ 16 ∨ ∃ c ∈ h, hexValue c = none))) →
      step s = .next { s with pending := rest, refused := true }) ∧
  (∀ (s : State) (off : Nat) (rest : List HostEvent), off % 8 = 0 → off < 0x3000 →
    (NextAction s (.read 64 off) rest ∨ ∃ v, NextAction s (.write 64 off v) rest) →
      ∃ t, step s = .next t ∧ t.refused = false) ∧
  (∀ bs : List Bool, (bs.length % 4 ≠ 0 → ∃ why, expandAction (.toHex bs) = [.refuse why]) ∧
    (bs.length % 4 = 0 → expandAction (.toHex bs) = [])) ∧
  ∀ s : State, s.refused = true → ∃ t, step s = .next t ∧ t.refused = true

/-- R60, R244: a host read after a host write of the same register returns the value written, and RKIN its low
48 bits (R27). -/
def Obligations.ReadAfterWriteReturnsValue : Prop :=
  ∀ (s : State) (v : Word) (rest : List HostEvent), s.refused = false →
    (∀ r ∈ [RegName.din, .key], ∃ t,
      runSteps 2 { s with pending := .write 64 (offsetOf r) v :: .read 64 (offsetOf r) :: rest } = t ∧
        t.reads = s.reads ++ [v] ∧ t.pending = rest) ∧
    ∃ t, runSteps 2 { s with pending := .write 64 0x020 v :: .read 64 0x020 :: rest } = t ∧
      t.reads = s.reads ++ [v &&& 0x0000FFFFFFFFFFFF] ∧ t.pending = rest

/-- R243, R249: the host's encryption sequence, operands in either order: every result is visible to the very
next reads. -/
def Obligations.EncryptionSequenceReadsResults : Prop :=
  ∀ (s : State) (pt k : Word) (rest : List HostEvent), s.refused = false → s.status = ⟨false, .none⟩ →
    ∀ ops ∈ [[HostEvent.write 64 0x010 pt, .write 64 0x018 k], [.write 64 0x018 k, .write 64 0x010 pt]],
      (runSteps 6 { s with pending := ops ++
        (.write 64 0x000 0x40 :: .read 64 0x008 :: .read 64 0x028 :: .read 64 0x030 :: rest) }).reads =
          s.reads ++ [0, (desEncrypt pt k).ct, 282]

/-! ### Faults, reset and runs -/

/-- R218: a faulted engine ignores every write to CMD, takes writes to DIN, KEY and RKIN, and answers reads
without changing a register; a read with no defined value observes a draw (log entry 3). -/
def Obligations.FaultedEngineIgnoresCommands : Prop :=
  ∀ (s : State) (rest : List HostEvent), s.status.fault = true →
    (∀ v, NextAction s (.write 64 0x000 v) rest → step s = .next { s with pending := rest }) ∧
    (∀ v, NextAction s (.write 64 0x010 v) rest → step s = .next { s with pending := rest, din := ⟨v, true⟩ }) ∧
    (∀ v, NextAction s (.write 64 0x018 v) rest → step s = .next { s with pending := rest, key := ⟨v, true⟩ }) ∧
    (∀ v, NextAction s (.write 64 0x020 v) rest →
      step s = .next { s with pending := rest, rkin := ⟨v.extractLsb' 0 48, true⟩ }) ∧
    (∀ off, NextAction s (.read 64 off) rest → off % 8 = 0 → off < 0x3000 →
      ∃ t, step s = .next t ∧ t = { s with pending := rest, reads := t.reads, drawCount := t.drawCount } ∧
        t.reads = s.reads ++ [((regAt off).bind (registerValue · s)).getD (Config.draw s.drawSource s.drawCount)])

/-- R218, R220: over any number of steps without a reset, a faulted engine keeps its STATUS and every result of
its last successful command. -/
def Obligations.FaultLastsUntilReset : Prop :=
  ∀ (k : Nat) (s : State), s.status.fault = true → .reset ∉ s.pending →
    (runSteps k s).status = s.status ∧ (runSteps k s).dout = s.dout ∧ (runSteps k s).rk = s.rk ∧
      (runSteps k s).trace = s.trace

/-- R220, R240: STATUS.FAULT goes from 1 to 0 only in a reset step, and a fault's cause never changes to
another. -/
def Obligations.OnlyResetClearsFault : Prop :=
  ∀ s : State, s.status.fault = true → ∃ t, step s = .next t ∧
    (t.status = s.status ∨ ∃ rest, NextAction s .reset rest ∧ t.status = ⟨false, .none⟩)

/-- R40, R240: a reset step leaves STATUS 0, TRLEN 0 and every register unwritten; what the host has observed and
has still to do stays (log entry 10). -/
def Obligations.ResetClearsEveryRegister : Prop :=
  ∀ (s : State) (rest : List HostEvent), NextAction s .reset rest →
    ∃ t, step s = .next t ∧ t.Launch ∧ t.status = ⟨false, .none⟩ ∧ t.trlen = 0 ∧
      t.pending = rest ∧ t.reads = s.reads ∧ t.refused = s.refused ∧ t.drawCount = s.drawCount ∧
      t.drawSource = s.drawSource

/-- R40, R242: the reset state meets the launch premise, and STATUS, TRLEN and CMD read as 0 there. -/
def Obligations.ResetStateMeetsLaunchPremise : Prop :=
  State.reset.Launch ∧ registerValue .status State.reset = some 0 ∧ registerValue .trlen State.reset = some 0 ∧
    registerValue .cmd State.reset = some 0

/-- R229: every command and every step answers a next state. A step of a run that has not ended takes its next
action. A run that has ended, at a refused action or with no action left, keeps the list of actions as it
is; that such a step answers a next state is the model's choice (log entry 5). -/
def Obligations.EveryStepCompletes : Prop :=
  (∀ (i : Instr) (s : State), ∃ t, exec i s = .next t) ∧
  ∀ s : State, ∃ t, step s = .next t ∧ t.pending = if s.refused = true then s.pending else s.pending.tail

/-- R248: a run ends after the step of its last access, or at a refused action; then no step changes anything
(log entry 5), and a run that was not refused has read one value per read. -/
def Obligations.RunEndsAfterLastAccess : Prop :=
  ∀ s : State, (runToEnd s).RunEnded ∧ step (runToEnd s) = .next (runToEnd s) ∧
    ((runToEnd s).refused = false → (runToEnd s).reads.length =
      s.reads.length + s.pending.countP (fun e => match e with | .read _ _ => true | _ => false))

/-- R35: what an unwritten register's field holds is never seen: states that differ only there step to states
that differ only there. The value State.reset gives such a field (log entry 1) therefore has no
effect. That the two states read equal draws rests on the model's choice that a draw is a function of the
source and the counter, in which they agree (log entry 3). -/
def Obligations.UnwrittenValuesAreNeverSeen : Prop :=
  ∀ s t : State, State.Agree s t → ∃ s' t', step s = .next s' ∧ step t = .next t' ∧ State.Agree s' t'

/-- The invariant of State.Inv (R24, R29, R30, R31, R32, R211) holds after reset. -/
def Obligations.ResetStateMeetsInvariant : Prop := State.reset.Inv

/-- Every step keeps the invariant of State.Inv, from every state that meets it. -/
def Obligations.StepKeepsInvariant : Prop :=
  ∀ s : State, s.Inv → ∃ t, step s = .next t ∧ t.Inv

/-! ### Host codec and platform -/

/-- R87 (wr, rd) and R88 (the others): the accesses each line of a host program stands for, in order. That a text
of a length other than 8 is refused with the cause textLength, whatever its characters, is the model's
choice (log entry 15); R88 says that it is refused. -/
def Obligations.HostLinesExpand : Prop :=
  (∀ r v, expandLine (.wr r v) = [.write 64 (offsetOf r) v]) ∧
  (∀ r, expandLine (.rd r) = [.read 64 (offsetOf r)]) ∧
  (∀ i, expandLine (.command i) = [.write 64 0x000 (encode i)]) ∧
  (∀ pt k, expandLine (.des pt k) = [.write 64 0x010 pt, .write 64 0x018 k, .write 64 0x000 0x40]) ∧
  (∀ r k, expandLine (.feistel r k) = [.write 64 0x010 r, .write 64 0x020 k, .write 64 0x000 0x30]) ∧
  (∀ t v, textOperand t = .ok v → expandLine (.ldtext .din t) = [.write 64 0x010 v] ∧
    expandLine (.ldtext .key t) = [.write 64 0x018 v]) ∧
  (∀ r t, t.length ≠ 8 → expandLine (.ldtext r t) = [.refuse .textLength]) ∧
  ∀ r h v, hexOperand h = .ok v → expandLine (.ldhex r h) = [.write 64 (offsetOf r) v]

/-- R64: bits_to_hex of a string whose width is a multiple of 4 gives a quarter as many characters, all of them
uppercase hex digits, and digit k is the value of positions 4k-3 .. 4k. -/
def Obligations.BitsToHexDigits : Prop :=
  ∀ bs : List Bool, bs.length % 4 = 0 → ∃ h, bitsToHex bs = .ok h ∧ h.length = bs.length / 4 ∧
    (∀ k, 1 ≤ k → k ≤ bs.length / 4 → ∃ c, h[k - 1]? = some c ∧
      hexValue c = some (natOfBits ((bs.drop (4 * k - 4)).take 4))) ∧
    ∀ c ∈ h, c ∈ ['0', '1', '2', '3', '4', '5', '6', '7', '8', '9', 'A', 'B', 'C', 'D', 'E', 'F']

/-- R66's inference: hex_to_bits undoes bits_to_hex. -/
def Obligations.HexRoundTrip : Prop :=
  ∀ bs : List Bool, bs.length % 4 = 0 → ∃ h, bitsToHex bs = .ok h ∧ hexToBits h = .ok bs

/-- R58: character k of an 8-character text is positions 8k-7 .. 8k of the operand, and hex digit k of a
16-digit string is positions 4k-3 .. 4k. -/
def Obligations.TextAndHexPositions : Prop :=
  (∀ text : List Char, text.length = 8 → (∀ c ∈ text, c.toNat ≤ 255) → ∃ v, textOperand text = .ok v ∧
    ∀ k, 1 ≤ k → k ≤ 8 → ∃ c, text[k - 1]? = some c ∧ (span v (8 * k - 7) 8).toNat = c.toNat) ∧
  ∀ h : List Char, h.length = 16 → (∀ c ∈ h, hexValue c ≠ none) → ∃ v, hexOperand h = .ok v ∧
    ∀ k, 1 ≤ k → k ≤ 16 → ∃ c, h[k - 1]? = some c ∧ hexValue c = some (span v (4 * k - 3) 4).toNat

/-- R10, R226, R240: stepping or resetting one engine of a platform leaves every other as it is, and a platform
has at least one engine (log entry 7). -/
def Obligations.EnginesShareNothing : Prop :=
  (∀ (p : Platform) (k j : Nat), j ≠ k →
    (p.stepEngine k).engines[j]? = p.engines[j]? ∧ (p.resetEngine k).engines[j]? = p.engines[j]?) ∧
  (∀ (p : Platform) (k : Nat) (e : EngineSlot), p.engines[k]? = some e →
    ∃ t, step e.core = .next t ∧ (p.stepEngine k).engines[k]? = some { e with core := t }) ∧
  1 ≤ Platform.start.engines.length

/-- R59: the byte lanes of the bus change no register value, under either byte order (log entry 7). -/
def Obligations.ByteLanesKeepValue : Prop :=
  ∀ (order : ByteOrder) (v : Word), (busLanes order v).length = 8 ∧ laneValue order (busLanes order v) = v
end

