-- ==== Sys2Proof/Laws/Bits.lean ====
section
/-! SUPPORT. DES strings by position: two strings are equal when their positions are, and the string made of a
list of bits has those bits at its positions (spec/00_scope.md rules R11 and R12). -/

namespace Sys2Proof.Machine

/-- One more bit at the end doubles the value and adds the bit (R12). -/
theorem natOfBits_concat (bs : List Bool) (b : Bool) : natOfBits (bs ++ [b]) = 2 * natOfBits bs + b.toNat := by
  simp [natOfBits, List.foldl_append]

/-- Bit i of the value of a bit list is the i-th bit from its end (R12). -/
theorem testBit_natOfBits (bs : List Bool) (i : Nat) :
    (natOfBits bs).testBit i = (bs.reverse[i]?).getD false := by
  induction bs using List.reverseRecOn generalizing i with
  | nil => simp [natOfBits]
  | append_singleton bs b ih =>
    rw [natOfBits_concat]
    cases i with
    | zero => cases b <;> simp [Nat.testBit_zero]
    | succ i =>
      have hdiv : (2 * natOfBits bs + b.toNat) / 2 = natOfBits bs := by
        have := Bool.toNat_le b; omega
      rw [Nat.testBit_succ, hdiv, ih]; simp

theorem natOfBits_lt (bs : List Bool) : natOfBits bs < 2 ^ bs.length := by
  induction bs using List.reverseRecOn with
  | nil => simp [natOfBits]
  | append_singleton bs b ih =>
    have := Bool.toNat_le b
    rw [natOfBits_concat, List.length_append, List.length_singleton, pow_succ]; omega

/-- Position k of the string made of a list of bits is its k-th bit. -/
theorem pos_ofBits {w : Nat} {bs : List Bool} (hlen : bs.length = w) {k : Nat} (h1 : 1 ≤ k) (hk : k ≤ w) :
    pos (ofBits w bs) k = bs[k - 1]'(by omega) := by
  have hrev : bs.reverse[w - k]? = some (bs[k - 1]'(by omega)) := by
    rw [List.getElem?_reverse (by omega), List.getElem?_eq_getElem (by omega)]
    congr 2; omega
  simp [pos, ofBits, BitVec.getLsbD_ofNat, testBit_natOfBits, hrev]
  omega

/-- Two strings with the same bit at every position are equal. -/
theorem eq_of_pos_eq {w : Nat} {a b : BitVec w} (h : ∀ k, 1 ≤ k → k ≤ w → pos a k = pos b k) : a = b := by
  apply BitVec.eq_of_getLsbD_eq
  intro i hi
  have := h (w - i) (by omega) (by omega)
  simpa [pos, show w - (w - i) = i by omega] using this

/-- Complement acts position by position. -/
theorem pos_not {w : Nat} (v : BitVec w) {n : Nat} (h1 : 1 ≤ n) (hn : n ≤ w) : pos (~~~v) n = !pos v n := by
  simp only [pos, BitVec.getLsbD_not]
  simp; omega

/-- XOR acts position by position (R152). -/
theorem pos_xor {w : Nat} (a b : BitVec w) (n : Nat) : pos (a ^^^ b) n = (pos a n ^^ pos b n) := by
  simp [pos]

/-- Position k of a span is position a+k-1 of the whole (R13). -/
theorem pos_span {w : Nat} (v : BitVec w) {a len k : Nat} (h1 : 1 ≤ k) (hk : k ≤ len) (ha : a + len - 1 ≤ w) :
    pos (span v a len) k = pos v (a + k - 1) := by
  simp only [pos, span, BitVec.getLsbD_extractLsb']
  rw [show w - (a + len - 1) + (len - k) = w - (a + k - 1) by omega]
  simp; omega

/-- Position k of a concatenation (R13). -/
theorem pos_append {m n : Nat} (a : BitVec m) (b : BitVec n) (k : Nat) (hk : k ≤ m + n) :
    pos (a ++ b) k = if k ≤ m then pos a k else pos b (k - m) := by
  simp only [pos, BitVec.getLsbD_append]
  split
  · rename_i h
    rw [if_neg (by omega), show m + n - k = n - (k - m) by omega]
  · rename_i h
    rw [if_pos (by omega), show m + n - k - n = m - k by omega]

/-- Complement of a span. -/
theorem span_not {w : Nat} (v : BitVec w) {a len : Nat} (ha : 1 ≤ a) (h : a + len - 1 ≤ w) :
    span (~~~v) a len = ~~~span v a len := by
  apply eq_of_pos_eq
  intro k h1 hk
  rw [pos_span _ h1 hk h, pos_not _ (by omega) (by omega), pos_not _ h1 hk, pos_span _ h1 hk h]

@[simp] theorem length_bitsOf {w : Nat} (v : BitVec w) : (bitsOf v).length = w := by simp [bitsOf]

/-- The bits of a string, put together again, are the string (R11, R12). -/
theorem ofBits_bitsOf {w : Nat} (v : BitVec w) : ofBits w (bitsOf v) = v := by
  apply eq_of_pos_eq
  intro k h1 hk
  rw [pos_ofBits (length_bitsOf v) h1 hk]
  simp [bitsOf, show k - 1 + 1 = k by omega]

end Sys2Proof.Machine
end

