-- ==== Sys2Proof/Laws/State.lean ====
section
/-! SUPPORT. One lemma per field per update of State, so that no proof unfolds a record update. -/

namespace Sys2Proof.Machine

@[simp] theorem setDin_status (s : State) (v : Word) : (s.setDin v).status = s.status := rfl
@[simp] theorem setDin_din (s : State) (v : Word) : (s.setDin v).din = Reg.holding v := rfl
@[simp] theorem setDin_key (s : State) (v : Word) : (s.setDin v).key = s.key := rfl
@[simp] theorem setDin_rkin (s : State) (v : Word) : (s.setDin v).rkin = s.rkin := rfl
@[simp] theorem setDin_dout (s : State) (v : Word) : (s.setDin v).dout = s.dout := rfl
@[simp] theorem setDin_rk (s : State) (v : Word) : (s.setDin v).rk = s.rk := rfl
@[simp] theorem setDin_trace (s : State) (v : Word) : (s.setDin v).trace = s.trace := rfl
@[simp] theorem setDin_pending (s : State) (v : Word) : (s.setDin v).pending = s.pending := rfl
@[simp] theorem setDin_reads (s : State) (v : Word) : (s.setDin v).reads = s.reads := rfl
@[simp] theorem setDin_refused (s : State) (v : Word) : (s.setDin v).refused = s.refused := rfl
@[simp] theorem setDin_drawCount (s : State) (v : Word) : (s.setDin v).drawCount = s.drawCount := rfl
@[simp] theorem setDin_drawSource (s : State) (v : Word) : (s.setDin v).drawSource = s.drawSource := rfl

@[simp] theorem setKey_status (s : State) (v : Word) : (s.setKey v).status = s.status := rfl
@[simp] theorem setKey_din (s : State) (v : Word) : (s.setKey v).din = s.din := rfl
@[simp] theorem setKey_key (s : State) (v : Word) : (s.setKey v).key = Reg.holding v := rfl
@[simp] theorem setKey_rkin (s : State) (v : Word) : (s.setKey v).rkin = s.rkin := rfl
@[simp] theorem setKey_dout (s : State) (v : Word) : (s.setKey v).dout = s.dout := rfl
@[simp] theorem setKey_rk (s : State) (v : Word) : (s.setKey v).rk = s.rk := rfl
@[simp] theorem setKey_trace (s : State) (v : Word) : (s.setKey v).trace = s.trace := rfl
@[simp] theorem setKey_pending (s : State) (v : Word) : (s.setKey v).pending = s.pending := rfl
@[simp] theorem setKey_reads (s : State) (v : Word) : (s.setKey v).reads = s.reads := rfl
@[simp] theorem setKey_refused (s : State) (v : Word) : (s.setKey v).refused = s.refused := rfl
@[simp] theorem setKey_drawCount (s : State) (v : Word) : (s.setKey v).drawCount = s.drawCount := rfl
@[simp] theorem setKey_drawSource (s : State) (v : Word) : (s.setKey v).drawSource = s.drawSource := rfl

@[simp] theorem setRkin_status (s : State) (v : BitVec 48) : (s.setRkin v).status = s.status := rfl
@[simp] theorem setRkin_din (s : State) (v : BitVec 48) : (s.setRkin v).din = s.din := rfl
@[simp] theorem setRkin_key (s : State) (v : BitVec 48) : (s.setRkin v).key = s.key := rfl
@[simp] theorem setRkin_rkin (s : State) (v : BitVec 48) : (s.setRkin v).rkin = Reg.holding v := rfl
@[simp] theorem setRkin_dout (s : State) (v : BitVec 48) : (s.setRkin v).dout = s.dout := rfl
@[simp] theorem setRkin_rk (s : State) (v : BitVec 48) : (s.setRkin v).rk = s.rk := rfl
@[simp] theorem setRkin_trace (s : State) (v : BitVec 48) : (s.setRkin v).trace = s.trace := rfl
@[simp] theorem setRkin_pending (s : State) (v : BitVec 48) : (s.setRkin v).pending = s.pending := rfl
@[simp] theorem setRkin_reads (s : State) (v : BitVec 48) : (s.setRkin v).reads = s.reads := rfl
@[simp] theorem setRkin_refused (s : State) (v : BitVec 48) : (s.setRkin v).refused = s.refused := rfl
@[simp] theorem setRkin_drawCount (s : State) (v : BitVec 48) : (s.setRkin v).drawCount = s.drawCount := rfl
@[simp] theorem setRkin_drawSource (s : State) (v : BitVec 48) : (s.setRkin v).drawSource = s.drawSource := rfl

@[simp] theorem setDout_status {w : Nat} (s : State) (v : BitVec w) : (s.setDout v).status = s.status := rfl
@[simp] theorem setDout_din {w : Nat} (s : State) (v : BitVec w) : (s.setDout v).din = s.din := rfl
@[simp] theorem setDout_key {w : Nat} (s : State) (v : BitVec w) : (s.setDout v).key = s.key := rfl
@[simp] theorem setDout_rkin {w : Nat} (s : State) (v : BitVec w) : (s.setDout v).rkin = s.rkin := rfl
@[simp] theorem setDout_dout {w : Nat} (s : State) (v : BitVec w) : (s.setDout v).dout = Reg.holding (placed v) := rfl
@[simp] theorem setDout_rk {w : Nat} (s : State) (v : BitVec w) : (s.setDout v).rk = s.rk := rfl
@[simp] theorem setDout_trace {w : Nat} (s : State) (v : BitVec w) : (s.setDout v).trace = s.trace := rfl
@[simp] theorem setDout_pending {w : Nat} (s : State) (v : BitVec w) : (s.setDout v).pending = s.pending := rfl
@[simp] theorem setDout_reads {w : Nat} (s : State) (v : BitVec w) : (s.setDout v).reads = s.reads := rfl
@[simp] theorem setDout_refused {w : Nat} (s : State) (v : BitVec w) : (s.setDout v).refused = s.refused := rfl
@[simp] theorem setDout_drawCount {w : Nat} (s : State) (v : BitVec w) : (s.setDout v).drawCount = s.drawCount := rfl
@[simp] theorem setDout_drawSource {w : Nat} (s : State) (v : BitVec w) : (s.setDout v).drawSource = s.drawSource := rfl

@[simp] theorem setRoundKeys_status (s : State) (ks : Vector RoundKey 16) : (s.setRoundKeys ks).status = s.status := rfl
@[simp] theorem setRoundKeys_din (s : State) (ks : Vector RoundKey 16) : (s.setRoundKeys ks).din = s.din := rfl
@[simp] theorem setRoundKeys_key (s : State) (ks : Vector RoundKey 16) : (s.setRoundKeys ks).key = s.key := rfl
@[simp] theorem setRoundKeys_rkin (s : State) (ks : Vector RoundKey 16) : (s.setRoundKeys ks).rkin = s.rkin := rfl
@[simp] theorem setRoundKeys_dout (s : State) (ks : Vector RoundKey 16) : (s.setRoundKeys ks).dout = s.dout := rfl
@[simp] theorem setRoundKeys_rk (s : State) (ks : Vector RoundKey 16) : (s.setRoundKeys ks).rk = ks.map Reg.holding := rfl
@[simp] theorem setRoundKeys_trace (s : State) (ks : Vector RoundKey 16) : (s.setRoundKeys ks).trace = s.trace := rfl
@[simp] theorem setRoundKeys_pending (s : State) (ks : Vector RoundKey 16) : (s.setRoundKeys ks).pending = s.pending := rfl
@[simp] theorem setRoundKeys_reads (s : State) (ks : Vector RoundKey 16) : (s.setRoundKeys ks).reads = s.reads := rfl
@[simp] theorem setRoundKeys_refused (s : State) (ks : Vector RoundKey 16) : (s.setRoundKeys ks).refused = s.refused := rfl
@[simp] theorem setRoundKeys_drawCount (s : State) (ks : Vector RoundKey 16) : (s.setRoundKeys ks).drawCount = s.drawCount := rfl
@[simp] theorem setRoundKeys_drawSource (s : State) (ks : Vector RoundKey 16) : (s.setRoundKeys ks).drawSource = s.drawSource := rfl

@[simp] theorem traceClear_status (s : State) : s.traceClear.status = s.status := rfl
@[simp] theorem traceClear_din (s : State) : s.traceClear.din = s.din := rfl
@[simp] theorem traceClear_key (s : State) : s.traceClear.key = s.key := rfl
@[simp] theorem traceClear_rkin (s : State) : s.traceClear.rkin = s.rkin := rfl
@[simp] theorem traceClear_dout (s : State) : s.traceClear.dout = s.dout := rfl
@[simp] theorem traceClear_rk (s : State) : s.traceClear.rk = s.rk := rfl
@[simp] theorem traceClear_trace (s : State) : s.traceClear.trace = [] := rfl
@[simp] theorem traceClear_pending (s : State) : s.traceClear.pending = s.pending := rfl
@[simp] theorem traceClear_reads (s : State) : s.traceClear.reads = s.reads := rfl
@[simp] theorem traceClear_refused (s : State) : s.traceClear.refused = s.refused := rfl
@[simp] theorem traceClear_drawCount (s : State) : s.traceClear.drawCount = s.drawCount := rfl
@[simp] theorem traceClear_drawSource (s : State) : s.traceClear.drawSource = s.drawSource := rfl

@[simp] theorem traceAppend_status (s : State) (r : TraceRecord) : (s.traceAppend r).status = s.status := rfl
@[simp] theorem traceAppend_din (s : State) (r : TraceRecord) : (s.traceAppend r).din = s.din := rfl
@[simp] theorem traceAppend_key (s : State) (r : TraceRecord) : (s.traceAppend r).key = s.key := rfl
@[simp] theorem traceAppend_rkin (s : State) (r : TraceRecord) : (s.traceAppend r).rkin = s.rkin := rfl
@[simp] theorem traceAppend_dout (s : State) (r : TraceRecord) : (s.traceAppend r).dout = s.dout := rfl
@[simp] theorem traceAppend_rk (s : State) (r : TraceRecord) : (s.traceAppend r).rk = s.rk := rfl
@[simp] theorem traceAppend_trace (s : State) (r : TraceRecord) : (s.traceAppend r).trace = s.trace ++ [r] := rfl
@[simp] theorem traceAppend_pending (s : State) (r : TraceRecord) : (s.traceAppend r).pending = s.pending := rfl
@[simp] theorem traceAppend_reads (s : State) (r : TraceRecord) : (s.traceAppend r).reads = s.reads := rfl
@[simp] theorem traceAppend_refused (s : State) (r : TraceRecord) : (s.traceAppend r).refused = s.refused := rfl
@[simp] theorem traceAppend_drawCount (s : State) (r : TraceRecord) : (s.traceAppend r).drawCount = s.drawCount := rfl
@[simp] theorem traceAppend_drawSource (s : State) (r : TraceRecord) : (s.traceAppend r).drawSource = s.drawSource := rfl

@[simp] theorem traceAppendAll_status (s : State) (rs : List TraceRecord) : (s.traceAppendAll rs).status = s.status := rfl
@[simp] theorem traceAppendAll_din (s : State) (rs : List TraceRecord) : (s.traceAppendAll rs).din = s.din := rfl
@[simp] theorem traceAppendAll_key (s : State) (rs : List TraceRecord) : (s.traceAppendAll rs).key = s.key := rfl
@[simp] theorem traceAppendAll_rkin (s : State) (rs : List TraceRecord) : (s.traceAppendAll rs).rkin = s.rkin := rfl
@[simp] theorem traceAppendAll_dout (s : State) (rs : List TraceRecord) : (s.traceAppendAll rs).dout = s.dout := rfl
@[simp] theorem traceAppendAll_rk (s : State) (rs : List TraceRecord) : (s.traceAppendAll rs).rk = s.rk := rfl
@[simp] theorem traceAppendAll_trace (s : State) (rs : List TraceRecord) : (s.traceAppendAll rs).trace = s.trace ++ rs := rfl
@[simp] theorem traceAppendAll_pending (s : State) (rs : List TraceRecord) : (s.traceAppendAll rs).pending = s.pending := rfl
@[simp] theorem traceAppendAll_reads (s : State) (rs : List TraceRecord) : (s.traceAppendAll rs).reads = s.reads := rfl
@[simp] theorem traceAppendAll_refused (s : State) (rs : List TraceRecord) : (s.traceAppendAll rs).refused = s.refused := rfl
@[simp] theorem traceAppendAll_drawCount (s : State) (rs : List TraceRecord) : (s.traceAppendAll rs).drawCount = s.drawCount := rfl
@[simp] theorem traceAppendAll_drawSource (s : State) (rs : List TraceRecord) : (s.traceAppendAll rs).drawSource = s.drawSource := rfl

@[simp] theorem setRefused_status (s : State) : (setRefused s).status = s.status := rfl
@[simp] theorem setRefused_din (s : State) : (setRefused s).din = s.din := rfl
@[simp] theorem setRefused_key (s : State) : (setRefused s).key = s.key := rfl
@[simp] theorem setRefused_rkin (s : State) : (setRefused s).rkin = s.rkin := rfl
@[simp] theorem setRefused_dout (s : State) : (setRefused s).dout = s.dout := rfl
@[simp] theorem setRefused_rk (s : State) : (setRefused s).rk = s.rk := rfl
@[simp] theorem setRefused_trace (s : State) : (setRefused s).trace = s.trace := rfl
@[simp] theorem setRefused_pending (s : State) : (setRefused s).pending = s.pending := rfl
@[simp] theorem setRefused_reads (s : State) : (setRefused s).reads = s.reads := rfl
@[simp] theorem setRefused_refused (s : State) : (setRefused s).refused = true := rfl
@[simp] theorem setRefused_drawCount (s : State) : (setRefused s).drawCount = s.drawCount := rfl
@[simp] theorem setRefused_drawSource (s : State) : (setRefused s).drawSource = s.drawSource := rfl

@[simp] theorem observeRead_status (s : State) (v : Word) : (observeRead v s).status = s.status := rfl
@[simp] theorem observeRead_din (s : State) (v : Word) : (observeRead v s).din = s.din := rfl
@[simp] theorem observeRead_key (s : State) (v : Word) : (observeRead v s).key = s.key := rfl
@[simp] theorem observeRead_rkin (s : State) (v : Word) : (observeRead v s).rkin = s.rkin := rfl
@[simp] theorem observeRead_dout (s : State) (v : Word) : (observeRead v s).dout = s.dout := rfl
@[simp] theorem observeRead_rk (s : State) (v : Word) : (observeRead v s).rk = s.rk := rfl
@[simp] theorem observeRead_trace (s : State) (v : Word) : (observeRead v s).trace = s.trace := rfl
@[simp] theorem observeRead_pending (s : State) (v : Word) : (observeRead v s).pending = s.pending := rfl
@[simp] theorem observeRead_reads (s : State) (v : Word) : (observeRead v s).reads = s.reads ++ [v] := rfl
@[simp] theorem observeRead_refused (s : State) (v : Word) : (observeRead v s).refused = s.refused := rfl
@[simp] theorem observeRead_drawCount (s : State) (v : Word) : (observeRead v s).drawCount = s.drawCount := rfl
@[simp] theorem observeRead_drawSource (s : State) (v : Word) : (observeRead v s).drawSource = s.drawSource := rfl

@[simp] theorem observeDraw_status (s : State) : (observeDraw s).status = s.status := rfl
@[simp] theorem observeDraw_din (s : State) : (observeDraw s).din = s.din := rfl
@[simp] theorem observeDraw_key (s : State) : (observeDraw s).key = s.key := rfl
@[simp] theorem observeDraw_rkin (s : State) : (observeDraw s).rkin = s.rkin := rfl
@[simp] theorem observeDraw_dout (s : State) : (observeDraw s).dout = s.dout := rfl
@[simp] theorem observeDraw_rk (s : State) : (observeDraw s).rk = s.rk := rfl
@[simp] theorem observeDraw_trace (s : State) : (observeDraw s).trace = s.trace := rfl
@[simp] theorem observeDraw_pending (s : State) : (observeDraw s).pending = s.pending := rfl
@[simp] theorem observeDraw_reads (s : State) : (observeDraw s).reads = s.reads ++ [Config.draw s.drawSource s.drawCount] := rfl
@[simp] theorem observeDraw_refused (s : State) : (observeDraw s).refused = s.refused := rfl
@[simp] theorem observeDraw_drawCount (s : State) : (observeDraw s).drawCount = s.drawCount + 1 := rfl
@[simp] theorem observeDraw_drawSource (s : State) : (observeDraw s).drawSource = s.drawSource := rfl

@[simp] theorem resetEngine_status (s : State) : (resetEngine s).status = Status.clear := rfl
@[simp] theorem resetEngine_din (s : State) : (resetEngine s).din = Reg.unwritten 64 := rfl
@[simp] theorem resetEngine_key (s : State) : (resetEngine s).key = Reg.unwritten 64 := rfl
@[simp] theorem resetEngine_rkin (s : State) : (resetEngine s).rkin = Reg.unwritten 48 := rfl
@[simp] theorem resetEngine_dout (s : State) : (resetEngine s).dout = Reg.unwritten 64 := rfl
@[simp] theorem resetEngine_rk (s : State) : (resetEngine s).rk = Vector.replicate 16 (Reg.unwritten 48) := rfl
@[simp] theorem resetEngine_trace (s : State) : (resetEngine s).trace = [] := rfl
@[simp] theorem resetEngine_pending (s : State) : (resetEngine s).pending = s.pending := rfl
@[simp] theorem resetEngine_reads (s : State) : (resetEngine s).reads = s.reads := rfl
@[simp] theorem resetEngine_refused (s : State) : (resetEngine s).refused = s.refused := rfl
@[simp] theorem resetEngine_drawCount (s : State) : (resetEngine s).drawCount = s.drawCount := rfl
@[simp] theorem resetEngine_drawSource (s : State) : (resetEngine s).drawSource = s.drawSource := rfl

@[simp] theorem raiseFault_din (c : Cause) (s : State) : (raiseFault c s).din = s.din := by
  unfold raiseFault; split <;> rfl
@[simp] theorem raiseFault_key (c : Cause) (s : State) : (raiseFault c s).key = s.key := by
  unfold raiseFault; split <;> rfl
@[simp] theorem raiseFault_rkin (c : Cause) (s : State) : (raiseFault c s).rkin = s.rkin := by
  unfold raiseFault; split <;> rfl
@[simp] theorem raiseFault_dout (c : Cause) (s : State) : (raiseFault c s).dout = s.dout := by
  unfold raiseFault; split <;> rfl
@[simp] theorem raiseFault_rk (c : Cause) (s : State) : (raiseFault c s).rk = s.rk := by
  unfold raiseFault; split <;> rfl
@[simp] theorem raiseFault_trace (c : Cause) (s : State) : (raiseFault c s).trace = s.trace := by
  unfold raiseFault; split <;> rfl
@[simp] theorem raiseFault_pending (c : Cause) (s : State) : (raiseFault c s).pending = s.pending := by
  unfold raiseFault; split <;> rfl
@[simp] theorem raiseFault_reads (c : Cause) (s : State) : (raiseFault c s).reads = s.reads := by
  unfold raiseFault; split <;> rfl
@[simp] theorem raiseFault_refused (c : Cause) (s : State) : (raiseFault c s).refused = s.refused := by
  unfold raiseFault; split <;> rfl
@[simp] theorem raiseFault_drawCount (c : Cause) (s : State) : (raiseFault c s).drawCount = s.drawCount := by
  unfold raiseFault; split <;> rfl
@[simp] theorem raiseFault_drawSource (c : Cause) (s : State) : (raiseFault c s).drawSource = s.drawSource := by
  unfold raiseFault; split <;> rfl

/-- On an engine that is not faulted the fault action records its cause (R215). -/
theorem raiseFault_of_clear {c : Cause} {s : State} (h : s.status.fault = false) :
    raiseFault c s = { s with status := ⟨true, c⟩ } := by
  simp [raiseFault, h]

/-- On a faulted engine the fault action changes nothing: the first cause stays (R215). -/
theorem raiseFault_of_faulted {c : Cause} {s : State} (h : s.status.fault = true) : raiseFault c s = s := by
  simp [raiseFault, h]

@[simp] theorem raiseFault_status_fault (c : Cause) (s : State) : (raiseFault c s).status.fault = true := by
  unfold raiseFault; split
  · assumption
  · rfl

/-- TRLEN is the number of records, and each trace action changes it as R31 and R32 say. -/
@[simp] theorem traceClear_trlen (s : State) : s.traceClear.trlen = 0 := rfl

@[simp] theorem traceAppend_trlen (s : State) (r : TraceRecord) : (s.traceAppend r).trlen = s.trlen + 1 := by
  simp [State.trlen]

/-- Appending several records is appending them one by one (R32). -/
theorem traceAppendAll_eq_foldl (s : State) (rs : List TraceRecord) :
    s.traceAppendAll rs = rs.foldl State.traceAppend s := by
  induction rs generalizing s with
  | nil => simp [State.traceAppendAll]
  | cons r rest ih => rw [List.foldl_cons, ← ih]; simp [State.traceAppendAll, State.traceAppend]

end Sys2Proof.Machine
end

