-- ==== Sys2Proof/Laws/Commands.lean ====
section
/-! SUPPORT. What the shared shape of a command can do (spec/60_exceptions.md rules R216 and R219). -/

namespace Sys2Proof.Machine

@[simp] theorem withOperands_true (work : State → State) (s : State) :
    withOperands true work s = .next (work s.traceClear) := rfl

@[simp] theorem withOperands_false (work : State → State) (s : State) :
    withOperands false work s = .next (raiseFault .unwrittenOperand s) := rfl

/-- The shared shape answers a next state: the work on a cleared trace, or the fault and nothing else. -/
theorem withOperands_cases (written : Bool) (work : State → State) (s : State) :
    (written = true ∧ withOperands written work s = .next (work s.traceClear)) ∨
    (written = false ∧ withOperands written work s = .next (raiseFault .unwrittenOperand s)) := by
  cases written <;> simp

/-- What a command does on a cleared trace when its operands are written; NOP does nothing (R189). -/
def work (i : Instr) (s : State) : State :=
  match i with
  | .nop => s
  | .permIp => s.setDout (permute ipTable (dinOperand 64 s))
  | .permFp => s.setDout (permute fpTable (dinOperand 64 s))
  | .permE => s.setDout (permute eTable (dinOperand 32 s))
  | .permP => s.setDout (permute pTable (dinOperand 32 s))
  | .permPc1 => s.setDout (permute pc1Table (dinOperand 64 s))
  | .permPc2 => s.setDout (permute pc2Table (dinOperand 56 s))
  | .ksched => (s.setRoundKeys (roundKeys (keyOperand s))).traceAppendAll (kschedRecords (keyOperand s))
  | .roundf =>
    (s.setDout (feistel (dinOperand 32 s) (rkinOperand s)).pout).traceAppendAll
      (feistelRecords 0 (feistel (dinOperand 32 s) (rkinOperand s)))
  | .encrypt =>
    ((s.traceAppendAll (encryptRecords (dinOperand 64 s) (keyOperand s))).setRoundKeys
      (roundKeys (keyOperand s))).setDout (desEncrypt (dinOperand 64 s) (keyOperand s)).ct

/-- Every command but NOP is the shared shape with its own operands and work. -/
theorem exec_eq_withOperands {i : Instr} (h : i ≠ .nop) (s : State) :
    exec i s = withOperands (operandsWritten i s) (work i) s := by
  cases i <;> first | exact absurd rfl h | rfl

/-- Everything exec can do: NOP leaves the state, a command with its operands written does its work on a cleared
trace, and one with an unwritten operand raises UNWRITTEN_OPERAND. -/
theorem exec_cases (i : Instr) (s : State) :
    (i = .nop ∧ exec i s = .next s) ∨
    (i ≠ .nop ∧ operandsWritten i s = true ∧ exec i s = .next (work i s.traceClear)) ∨
    (i ≠ .nop ∧ operandsWritten i s = false ∧ exec i s = .next (raiseFault .unwrittenOperand s)) := by
  by_cases h : i = .nop
  · subst h; exact .inl ⟨rfl, rfl⟩
  · rw [exec_eq_withOperands h]
    rcases withOperands_cases (operandsWritten i s) (work i) s with ⟨hw, he⟩ | ⟨hw, he⟩
    · exact .inr (.inl ⟨h, hw, he⟩)
    · exact .inr (.inr ⟨h, hw, he⟩)

end Sys2Proof.Machine
end

