-- ==== Sys2Proof/Laws/HostAccess.lean ====
section
/-! SUPPORT. What each shared operation of a host access can do, said once (spec/20_memory.md rules R52 to R55,
spec/60_exceptions.md rules R215 to R222). -/

namespace Sys2Proof.Machine

/-- A run with the mark set is idle. -/
theorem step_of_refused {s : State} (h : s.refused = true) : step s = .next s := by simp [step, performNext, h]

/-- A run with no access to come is idle. -/
theorem step_of_nothing_pending {s : State} (h : s.pending = []) : step s = .next s := by
  cases hr : s.refused <;> simp [step, performNext, h, hr]

/-- A run that has not ended performs its next action. -/
theorem step_of_pending {s : State} {e : HostEvent} {rest : List HostEvent} (hr : s.refused = false)
    (hp : s.pending = e :: rest) : step s = performEvent e { s with pending := rest } := by
  simp [step, performNext, hr, hp]

/-- raiseFault leaves a faulted engine as it is, and else records the cause. -/
theorem raiseFault_cases (c : Cause) (s : State) :
    (s.status.fault = true ∧ raiseFault c s = s) ∨
    (s.status.fault = false ∧ raiseFault c s = { s with status := ⟨true, c⟩ }) := by
  cases h : s.status.fault <;> simp [raiseFault, h]

/-- The three outcomes of a write to CMD. -/
theorem issueCommand_cases (v : Word) (s : State) :
    (s.status.fault = true ∧ issueCommand v s = .next s) ∨
    (s.status.fault = false ∧ (∃ e, decode v = .error e) ∧
      issueCommand v s = .next { s with status := ⟨true, .illegalCmd⟩ }) ∨
    (s.status.fault = false ∧ ∃ i, decode v = .ok i ∧ issueCommand v s = exec i s) := by
  cases h : s.status.fault <;> cases hd : decode v <;> simp [issueCommand, h, hd, raiseFault]

/-- The outcomes of a host write at a legal offset: ignored, a command, or a register other than CMD. -/
theorem hostWrite_cases (offset : Nat) (v : Word) (s : State) :
    (regAt offset = none ∧ hostWrite offset v s = .next s) ∨
    (regAt offset = some .cmd ∧ hostWrite offset v s = issueCommand v s) ∨
    (∃ r, regAt offset = some r ∧ r ≠ .cmd ∧ hostWrite offset v s = .next (writeRegister r v s)) := by
  cases hr : regAt offset with
  | none => exact .inl ⟨rfl, by simp [hostWrite, hr]⟩
  | some r =>
    by_cases hc : r = .cmd
    · subst hc; exact .inr (.inl ⟨rfl, by simp [hostWrite, hr]⟩)
    · refine .inr (.inr ⟨r, rfl, hc, ?_⟩)
      cases r <;> first | exact absurd rfl hc | simp [hostWrite, hr]

/-- A host read at a legal offset observes the value the register holds, or a draw. -/
theorem hostRead_cases (offset : Nat) (s : State) :
    (∃ v, (regAt offset).bind (registerValue · s) = some v ∧
      hostRead offset s = { s with reads := s.reads ++ [v] }) ∨
    ((regAt offset).bind (registerValue · s) = none ∧
      hostRead offset s = { s with reads := s.reads ++ [Config.draw s.drawSource s.drawCount], drawCount := s.drawCount + 1 }) := by
  cases h : (regAt offset).bind (registerValue · s) with
  | none => exact .inr ⟨rfl, by simp [hostRead, h, observeDraw]⟩
  | some v => exact .inl ⟨v, rfl, by simp [hostRead, h, observeRead]⟩

/-- The outcomes of one action. -/
theorem performEvent_cases (e : HostEvent) (s : State) :
    (∃ offset v, e = .write 64 offset v ∧ accessLegal 64 offset = true ∧ performEvent e s = hostWrite offset v s) ∨
    (∃ offset, e = .read 64 offset ∧ accessLegal 64 offset = true ∧ performEvent e s = .next (hostRead offset s)) ∨
    (e = .reset ∧ performEvent e s = .next (resetEngine s)) ∨
    performEvent e s = .next { s with refused := true } := by
  have h64 : ∀ {bits offset : Nat}, accessLegal bits offset = true → bits = 64 := by
    intro bits offset h
    simp only [accessLegal, Bool.and_eq_true, beq_iff_eq] at h
    exact h.1.1
  cases e with
  | write bits offset v =>
    cases h : accessLegal bits offset with
    | false => exact .inr (.inr (.inr (by simp [performEvent, h, setRefused])))
    | true =>
      have hb := h64 h
      subst hb
      exact .inl ⟨offset, v, rfl, h, by simp [performEvent, h]⟩
  | read bits offset =>
    cases h : accessLegal bits offset with
    | false => exact .inr (.inr (.inr (by simp [performEvent, h, setRefused])))
    | true =>
      have hb := h64 h
      subst hb
      exact .inr (.inl ⟨offset, rfl, h, by simp [performEvent, h]⟩)
  | reset => exact .inr (.inr (.inl ⟨rfl, rfl⟩))
  | refuse why => exact .inr (.inr (.inr rfl))

/-- Only the round-key file, the trace, DOUT, DIN, KEY, RKIN and STATUS can change in a write: the host's own
part stays. -/
theorem writeRegister_host (r : RegName) (v : Word) (s : State) :
    (writeRegister r v s).pending = s.pending ∧ (writeRegister r v s).reads = s.reads ∧
      (writeRegister r v s).refused = s.refused ∧ (writeRegister r v s).drawCount = s.drawCount ∧
      (writeRegister r v s).drawSource = s.drawSource ∧
      (writeRegister r v s).status = s.status ∧ (writeRegister r v s).dout = s.dout ∧
      (writeRegister r v s).rk = s.rk ∧ (writeRegister r v s).trace = s.trace := by
  cases r <;> exact ⟨rfl, rfl, rfl, rfl, rfl, rfl, rfl, rfl, rfl⟩

end Sys2Proof.Machine
end

