-- ==== Sys2Proof/Laws/Lists.lean ====
section
/-! SUPPORT. Lists built from blocks of one length. -/

namespace Sys2Proof.Machine

/-- Entry m·i+j of a list of blocks of length m is entry j of block i. -/
theorem flatMap_getElem? {α β : Type} {f : α → List β} {m : Nat} (hf : ∀ x, (f x).length = m) (l : List α)
    (i j : Nat) (hj : j < m) : (l.flatMap f)[m * i + j]? = l[i]?.bind fun x => (f x)[j]? := by
  induction l generalizing i with
  | nil => simp
  | cons x rest ih =>
    rw [List.flatMap_cons]
    cases i with
    | zero => rw [List.getElem?_append_left (by rw [hf]; omega)]; simp
    | succ i =>
      rw [List.getElem?_append_right (by rw [hf, Nat.mul_succ]; omega), hf,
        show m * (i + 1) + j - m = m * i + j by rw [Nat.mul_succ]; omega, ih]
      simp

/-- The length of a list of blocks of length m. -/
theorem length_flatMap_const {α β : Type} {f : α → List β} {m : Nat} (hf : ∀ x, (f x).length = m) (l : List α) :
    (l.flatMap f).length = m * l.length := by
  induction l with
  | nil => simp
  | cons x rest ih => simp [List.flatMap_cons, ih, hf, Nat.mul_succ, Nat.add_comm]

end Sys2Proof.Machine
end

