-- ==== Sys2Proof/Laws/Permutation.lean ====
section
/-! SUPPORT. permute by position (spec/40_permutation.md rules R100 and R101). -/

namespace Sys2Proof.Machine

/-- Every entry of a table is a position of its input (R101). -/
theorem PermTable.mem_range {win wout : Nat} (T : PermTable win wout) {t : Nat} (h : t ∈ T.entries) :
    1 ≤ t ∧ t ≤ win := by
  simpa using List.all_eq_true.mp T.inRange t h

/-- Position k of permute(s, T) is position T[k] of s (R100). -/
theorem pos_permute {win wout : Nat} (T : PermTable win wout) (s : BitVec win) {k : Nat} (h1 : 1 ≤ k)
    (hk : k ≤ wout) : pos (permute T s) k = pos s (T.entries[k - 1]'(by rw [T.length]; omega)) := by
  rw [permute, pos_ofBits (by simp [T.length]) h1 hk]
  simp

/-- The entry that position k takes its bit from is a position of the input. -/
theorem PermTable.entry_range {win wout : Nat} (T : PermTable win wout) {k : Nat} (h1 : 1 ≤ k) (hk : k ≤ wout) :
    1 ≤ T.entries[k - 1]'(by rw [T.length]; omega) ∧ T.entries[k - 1]'(by rw [T.length]; omega) ≤ win :=
  T.mem_range (List.getElem_mem _)

/-- permute commutes with complement (R101). -/
theorem permute_not {win wout : Nat} (T : PermTable win wout) (s : BitVec win) :
    permute T (~~~s) = ~~~permute T s := by
  apply eq_of_pos_eq
  intro k h1 hk
  rw [pos_permute T _ h1 hk, pos_not _ h1 hk, pos_permute T _ h1 hk,
    pos_not _ (T.entry_range h1 hk).1 (T.entry_range h1 hk).2]

/-- permute reads only the positions of its table. -/
theorem permute_congr {win wout : Nat} (T : PermTable win wout) {s s' : BitVec win}
    (h : ∀ t ∈ T.entries, pos s t = pos s' t) : permute T s = permute T s' := by
  apply eq_of_pos_eq
  intro k h1 hk
  rw [pos_permute T _ h1 hk, pos_permute T _ h1 hk]
  exact h _ (List.getElem_mem _)

/-- Two tables whose composition returns every position undo each other. -/
theorem permute_permute_of_inverse {w v : Nat} (A : PermTable w v) (B : PermTable v w)
    (h : ∀ k, (hk : k < w) → ∃ t, B.entries[k]? = some t ∧ A.entries[t - 1]? = some (k + 1)) (x : BitVec w) :
    permute B (permute A x) = x := by
  apply eq_of_pos_eq
  intro k h1 hk
  obtain ⟨t, hB, hA⟩ := h (k - 1) (by omega)
  have hlt : k - 1 < B.entries.length := by rw [B.length]; omega
  rw [List.getElem?_eq_getElem hlt, Option.some.injEq] at hB
  rw [pos_permute B _ h1 hk, hB]
  have ht := hB ▸ B.entry_range h1 hk
  rw [pos_permute A _ ht.1 ht.2]
  have hlt' : t - 1 < A.entries.length := by rw [A.length]; omega
  rw [List.getElem?_eq_getElem hlt', Option.some.injEq] at hA
  rw [hA, show k - 1 + 1 = k by omega]

end Sys2Proof.Machine
end

