-- ==== Sys2Proof/Laws/KeySchedule.lean ====
section
/-! SUPPORT. Rotations of key halves and the rounds of the schedule in closed form
(spec/41_key_schedule.md rules R133 to R137). -/

namespace Sys2Proof.Machine

/-- Position k after a left rotation is position k+s before it, cyclically (R133). -/
theorem pos_rotl28 (v : KeyHalf) {s : Nat} (hs : s ≤ 28) {k : Nat} (h1 : 1 ≤ k) (hk : k ≤ 28) :
    pos (rotl28 v s) k = pos v ((k - 1 + s) % 28 + 1) := by
  have h28 : (k - 1 + s) % 28 = if k - 1 + s < 28 then k - 1 + s else k - 1 + s - 28 := by
    split <;> omega
  rw [h28]
  simp only [pos, rotl28, BitVec.getLsbD_or, BitVec.getLsbD_shiftLeft, BitVec.getLsbD_ushiftRight]
  split
  · rw [BitVec.getLsbD_of_ge v (28 - s + (28 - k)) (by omega)]
    simp [show 28 - k < 28 by omega, show ¬ (28 - k < s) by omega]
    congr 1; omega
  · rename_i h
    simp [show 28 - k < s by omega]
    congr 1; omega

/-- rotl28 is the left rotation of bit vectors. -/
theorem rotl28_eq_rotateLeft (v : KeyHalf) {s : Nat} (hs : s < 28) : rotl28 v s = v.rotateLeft s := by
  simp [rotl28, BitVec.rotateLeft, BitVec.rotateLeftAux, Nat.mod_eq_of_lt hs]

/-- Position k of a left rotation by any amount. -/
theorem pos_rotateLeft (v : KeyHalf) (m : Nat) {k : Nat} (h1 : 1 ≤ k) (hk : k ≤ 28) :
    pos (v.rotateLeft m) k = pos v ((k - 1 + m) % 28 + 1) := by
  have : v.rotateLeft m = rotl28 v (m % 28) := by simp [rotl28, BitVec.rotateLeft, BitVec.rotateLeftAux]
  rw [this, pos_rotl28 v (by omega) h1 hk, Nat.add_mod_mod]

/-- Rotations add up. -/
theorem rotateLeft_rotateLeft (v : KeyHalf) (m n : Nat) : (v.rotateLeft m).rotateLeft n = v.rotateLeft (m + n) := by
  apply eq_of_pos_eq
  intro k h1 hk
  rw [pos_rotateLeft _ _ h1 hk, pos_rotateLeft _ _ (by omega) (by omega), pos_rotateLeft _ _ h1 hk]
  congr 1
  omega

/-- Round i of the rounds of a list of shifts, by the cumulative shift. -/
theorem keyRounds_get (shifts : List Nat) (hs : ∀ s ∈ shifts, s < 28) (n : Nat) (c d : KeyHalf) (i : Nat) (hi : i < shifts.length) :
    (keyRounds n c d shifts)[i]? = some ⟨n + i, c.rotateLeft (shifts.take (i + 1)).sum, d.rotateLeft (shifts.take (i + 1)).sum,
      permute pc2Table (c.rotateLeft (shifts.take (i + 1)).sum ++ d.rotateLeft (shifts.take (i + 1)).sum)⟩ := by
  induction shifts generalizing n c d i with
  | nil => simp at hi
  | cons s rest ih =>
    have h28 : s < 28 := hs s (by simp)
    cases i with
    | zero => simp [keyRounds, rotl28_eq_rotateLeft _ h28]
    | succ i =>
      rw [keyRounds, List.getElem?_cons_succ, ih (fun x hx => hs x (by simp [hx])) _ _ _ _ (by simpa using hi)]
      simp [rotl28_eq_rotateLeft _ h28, rotateLeft_rotateLeft, Nat.add_assoc, Nat.add_comm 1 i]

/-- Round i+1 of the schedule, by the cumulative shift. -/
theorem ks_rounds_get (key : Word) {i : Nat} (hi : i < 16) :
    (ks key).rounds[i]? = some ⟨i + 1, (ks key).c0.rotateLeft (shiftSchedule.take (i + 1)).sum, (ks key).d0.rotateLeft (shiftSchedule.take (i + 1)).sum,
      permute pc2Table ((ks key).c0.rotateLeft (shiftSchedule.take (i + 1)).sum ++ (ks key).d0.rotateLeft (shiftSchedule.take (i + 1)).sum)⟩ := by
  rw [show (ks key).rounds = keyRounds 1 (ks key).c0 (ks key).d0 shiftSchedule from rfl,
    keyRounds_get _ (by decide) _ _ _ _ hi, Nat.add_comm 1 i]

/-- Entry n of the vector of round keys is the key of round n+1. -/
theorem roundKeys_get (key : Word) (n : Fin 16) : ∃ r, (ks key).rounds[n.val]? = some r ∧ (roundKeys key)[n] = r.k := by
  have h : n.val < (ks key).rounds.length := by rw [ks_rounds_length]; exact n.isLt
  exact ⟨_, List.getElem?_eq_getElem h, by simp [roundKeys]⟩

/-- A round's records. -/
@[simp] theorem keyRoundRecords_length (r : KeyRound) : (keyRoundRecords r).length = 3 := rfl

/-- The schedule's records after T.KEY. -/
@[simp] theorem keyScheduleRecords_length (key : Word) : (keyScheduleRecords (ks key)).length = 51 := by
  simp only [keyScheduleRecords, List.length_append, length_flatMap_const keyRoundRecords_length, ks_rounds_length]; rfl

/-- KSCHED's records. -/
@[simp] theorem kschedRecords_length (key : Word) : (kschedRecords key).length = 52 := by
  simp [kschedRecords, keyScheduleRecords_length]

end Sys2Proof.Machine
end

