-- ==== Sys2Proof/Laws/PerInstr.lean ====
section
/-! SUPPORT. The statements made once per command: the command word of each is well formed field by field
(spec/30_encoding.md rules R80, R82 and R86). -/

namespace Sys2Proof.Laws.EncodingFields

/-- The word of a command has ZERO = 0, a legal MAJOR and MINOR, and no bit above bit 7. -/
def Statement (i : Instr) : Prop :=
  (fieldsOf (encode i)).wellFormed = true ∧ ((fieldsOf (encode i)).major, (fieldsOf (encode i)).minor) = opcodeOf i ∧
    (encode i).toNat < 256

theorem nop : Statement .nop := by unfold Statement; decide
theorem permIp : Statement .permIp := by unfold Statement; decide
theorem permFp : Statement .permFp := by unfold Statement; decide
theorem permE : Statement .permE := by unfold Statement; decide
theorem permP : Statement .permP := by unfold Statement; decide
theorem permPc1 : Statement .permPc1 := by unfold Statement; decide
theorem permPc2 : Statement .permPc2 := by unfold Statement; decide
theorem ksched : Statement .ksched := by unfold Statement; decide
theorem roundf : Statement .roundf := by unfold Statement; decide
theorem encrypt : Statement .encrypt := by unfold Statement; decide

end Sys2Proof.Laws.EncodingFields
end

