-- ==== Sys2Proof/Laws/Pipeline.lean ====
section
/-! SUPPORT. The rounds of an encryption by index (spec/43_pipeline.md rules R183 and R186). -/

namespace Sys2Proof.Machine

/-- The halves (L, R) after n rounds of a list of round keys. -/
def halvesAfter (l r : Half) (ks : List KeyRound) : Nat → Half × Half
  | 0 => (l, r)
  | n + 1 =>
    match ks[n]? with
    | some k => ((feistelRound (halvesAfter l r ks n).1 (halvesAfter l r ks n).2 k).lnew,
        (feistelRound (halvesAfter l r ks n).1 (halvesAfter l r ks n).2 k).rnew)
    | none => halvesAfter l r ks n

/-- The first round may be taken before the others. -/
theorem halvesAfter_cons (l r : Half) (k : KeyRound) (rest : List KeyRound) (n : Nat) :
    halvesAfter l r (k :: rest) (n + 1) = halvesAfter (feistelRound l r k).lnew (feistelRound l r k).rnew rest n := by
  induction n with
  | zero => simp [halvesAfter]
  | succ n ih =>
    rw [halvesAfter, List.getElem?_cons_succ]
    conv => rhs; rw [halvesAfter]
    rw [ih]

/-- Round n starts from the halves after n rounds. -/
theorem feistelRounds_get (ks : List KeyRound) (l r : Half) (n : Nat) :
    (feistelRounds l r ks)[n]? = ks[n]?.map (feistelRound (halvesAfter l r ks n).1 (halvesAfter l r ks n).2) := by
  induction ks generalizing l r n with
  | nil => simp [feistelRounds]
  | cons k rest ih =>
    cases n with
    | zero => simp [feistelRounds, halvesAfter]
    | succ n => rw [feistelRounds, List.getElem?_cons_succ, ih, List.getElem?_cons_succ, halvesAfter_cons]

/-- One round per round key. -/
@[simp] theorem feistelRounds_length (ks : List KeyRound) (l r : Half) : (feistelRounds l r ks).length = ks.length := by
  induction ks generalizing l r with
  | nil => rfl
  | cons k rest ih => simp [feistelRounds, ih]

/-- The last halves are those after every round. -/
theorem lastHalves_eq (ks : List KeyRound) (l r : Half) :
    lastHalves l r (feistelRounds l r ks) = halvesAfter l r ks ks.length := by
  induction ks generalizing l r with
  | nil => rfl
  | cons k rest ih => rw [feistelRounds, lastHalves, ih, List.length_cons, halvesAfter_cons]

/-- The records of one application of f. -/
@[simp] theorem feistelRecords_length (n : Nat) (fv : FValues) : (feistelRecords n fv).length = 12 := by
  simp [feistelRecords]

/-- The records of one round. -/
@[simp] theorem roundRecords_length (x : Round) : (roundRecords x).length = 14 := by simp [roundRecords, feistelRecords_length]

/-- The records of an encryption. -/
@[simp] theorem encryptRecords_length (pt ky : Word) : (encryptRecords pt ky).length = 282 := by
  have h1 : (desEncrypt pt ky).sched = ks ky := rfl
  have h2 : (desEncrypt pt ky).rounds.length = 16 := by
    rw [show (desEncrypt pt ky).rounds = feistelRounds _ _ (ks ky).rounds from rfl, feistelRounds_length, ks_rounds_length]
  simp only [encryptRecords, List.length_append, length_flatMap_const roundRecords_length, h1, h2, keyScheduleRecords_length]
  rfl

end Sys2Proof.Machine
end

