-- ==== Sys2Proof/Laws/Trace.lean ====
section
/-! SUPPORT. The header word of a trace record as a number (spec/10_state.md rule R30). -/

namespace Sys2Proof.Machine

/-- The header is the sum of its fields, each at its place. -/
theorem toNat_traceHeader (lbl : Label) {rnd box w : Nat} (h1 : rnd < 256) (h2 : box < 16) (h3 : w ≤ 64) :
    (traceHeader lbl rnd box w).toNat = w * 2 ^ 24 + box * 2 ^ 16 + rnd * 2 ^ 8 + lbl.code.toNat := by
  have hl := lbl.code.isLt
  have h0 : (0#4).toNat = 0 := rfl
  simp only [traceHeader, placed, BitVec.toNat_setWidth, BitVec.toNat_append, BitVec.toNat_ofNat]
  rw [Nat.mod_eq_of_lt (show w < 2 ^ 8 by omega), Nat.mod_eq_of_lt (show box < 2 ^ 4 by omega),
    Nat.mod_eq_of_lt (show rnd < 2 ^ 8 by omega), show (0 : BitVec 4).toNat = 0 from rfl,
    ← Nat.shiftLeft_add_eq_or_of_lt (by omega), ← Nat.shiftLeft_add_eq_or_of_lt (by omega),
    ← Nat.shiftLeft_add_eq_or_of_lt (by omega), ← Nat.shiftLeft_add_eq_or_of_lt (by omega)]
  simp only [Nat.shiftLeft_eq]
  omega

end Sys2Proof.Machine
end

