-- ==== Sys2Proof/Tests/Slice0.lean ====
section
/-! SUPPORT. The model's own tests: values from spec/95_test_vectors.md and the corner cases of the rules, the
well-formedness smoke tests, and a witness for the hypotheses of every statement that has some. -/

namespace Sys2Proof.Tests

open Sys2Proof.Machine Sys2Proof.Claims

/-- A run from reset with these accesses to come. -/
def start (es : List HostEvent) : State := { State.reset with pending := es }

/-- The engine with the known-answer operands of 95_test_vectors.md section 1.3 loaded, RKIN with K1. -/
def loaded : State :=
  { State.reset with
    din := ⟨0x0123456789ABCDEF, true⟩, key := ⟨0x133457799BBCDEF1, true⟩, rkin := ⟨0x1B02EFFC7072, true⟩ }

/-- An engine that faulted on a reserved command. -/
def faulted : State := { loaded with status := ⟨true, .illegalCmd⟩ }

/-- The engine with only DIN loaded. -/
def withDin (v : Word) : State := { State.reset with din := ⟨v, true⟩ }

/-- The state a command leaves; the state itself where it answers none. -/
def after (i : Instr) (s : State) : State :=
  match exec i s with
  | .next t => t
  | .fault _ => s
  | .refused _ => s

/-- The state one step leaves; the state itself where it answers none. -/
def afterStep (s : State) : State :=
  match step s with
  | .next t => t
  | .fault _ => s
  | .refused _ => s

/-! ### Well-formed command words (R80, R82, R83) -/

/-- An ill-formed word for the ZERO check: 0x100. -/
theorem test_illFormed_zero : (fieldsOf 0x100).zeroOk = false ∧ decode 0x100 = .error .zeroFieldNonzero := by decide

/-- An ill-formed word for the MAJOR check: 0x50. -/
theorem test_illFormed_major : (fieldsOf 0x50).majorOk = false ∧ decode 0x50 = .error .reservedMajor := by decide

/-- Ill-formed words for the MINOR check: 0x41, and the selector 6 of 0x16. -/
theorem test_illFormed_minor : (fieldsOf 0x41).minorOk = false ∧ decode 0x41 = .error .nonzeroMinor ∧
    (fieldsOf 0x16).minorOk = false ∧ decode 0x16 = .error .reservedSelector := by decide

/-- Illegal accesses: a width of 32, an offset that is no multiple of 8, an offset past the window (R54). -/
theorem test_illegal_access : accessLegal 32 0x010 = false ∧ accessLegal 64 0x014 = false ∧
    accessLegal 64 0x3000 = false ∧ accessLegal 64 0x2FF8 = true := by decide

/-! ### Decoding: each word written out bit by bit, ZERO then MAJOR then MINOR (R80, R82) -/

theorem test_decode_nop : decode ((0 : BitVec 56) ++ 0b00000000#8) = .ok .nop := by decide
theorem test_decode_permIp : decode ((0 : BitVec 56) ++ 0b00010000#8) = .ok .permIp := by decide
theorem test_decode_permFp : decode ((0 : BitVec 56) ++ 0b00010001#8) = .ok .permFp := by decide
theorem test_decode_permE : decode ((0 : BitVec 56) ++ 0b00010010#8) = .ok .permE := by decide
theorem test_decode_permP : decode ((0 : BitVec 56) ++ 0b00010011#8) = .ok .permP := by decide
theorem test_decode_permPc1 : decode ((0 : BitVec 56) ++ 0b00010100#8) = .ok .permPc1 := by decide
theorem test_decode_permPc2 : decode ((0 : BitVec 56) ++ 0b00010101#8) = .ok .permPc2 := by decide
theorem test_decode_ksched : decode ((0 : BitVec 56) ++ 0b00100000#8) = .ok .ksched := by decide
theorem test_decode_roundf : decode ((0 : BitVec 56) ++ 0b00110000#8) = .ok .roundf := by decide
theorem test_decode_encrypt : decode ((0 : BitVec 56) ++ 0b01000000#8) = .ok .encrypt := by decide

/-- The table's word decodes, and a reserved word does not. -/
theorem test_decodeTableWord : decodeTableWord 64 0x40 = some .encrypt ∧ decodeTableWord 8 0x15 = some .permPc2 ∧
    decodeTableWord 64 0x17 = none := by decide

/-- The first step after reset runs the placed command: KSCHED with KEY unwritten faults (R141). -/
theorem test_withFetchWord : (afterStep (State.reset.withFetchWord 64 0x20)).status = ⟨true, .unwrittenOperand⟩ ∧
    afterStep (State.reset.withFetchWord 64 0x00) = State.reset := by decide

/-! ### The Permutation Engine (R110 to R115) -/

theorem test_permIp_example : (after .permIp (withDin 0x0123456789ABCDEF)).dout = ⟨0xCC00CCFFF0AAF0AA, true⟩ := by
  decide +kernel
theorem test_permIp_corner : (after .permIp (withDin 0x8000000000000000)).dout = ⟨0x0000000001000000, true⟩ ∧
    (after .permIp (withDin 1)).dout = ⟨0x0000008000000000, true⟩ := by decide +kernel
theorem test_permFp_example : (after .permFp (withDin 0x0A4CD99543423234)).dout = ⟨0x85E813540F0AB405, true⟩ := by
  decide +kernel
theorem test_permFp_corner : (after .permFp (withDin 0x8000000000000000)).dout = ⟨0x0000000000000040, true⟩ ∧
    (after .permFp (withDin 1)).dout = ⟨0x0200000000000000, true⟩ := by decide +kernel
theorem test_permE_example : (after .permE (withDin 0xFFFFFFFFF0AAF0AA)).dout = ⟨0x00007A15557A1555, true⟩ := by
  decide +kernel
theorem test_permE_corner : (after .permE (withDin 0x80000000)).dout = ⟨0x400000000001, true⟩ ∧
    (after .permE (withDin 1)).dout = ⟨0x800000000002, true⟩ := by decide +kernel
theorem test_permP_example : (after .permP (withDin 0xFFFFFFFF5C82B597)).dout = ⟨0x00000000234AA9BB, true⟩ := by
  decide +kernel
theorem test_permP_corner : (after .permP (withDin 0x80000000)).dout = ⟨0x00800000, true⟩ ∧
    (after .permP (withDin 1)).dout = ⟨0x00000800, true⟩ := by decide +kernel
theorem test_permPc1_example : (after .permPc1 (withDin 0x133457799BBCDEF1)).dout = ⟨0x00F0CCAAF556678F, true⟩ := by
  decide +kernel
theorem test_permPc1_corner : (after .permPc1 (withDin 0x0101010101010101)).dout = ⟨0, true⟩ ∧
    (after .permPc1 (withDin 0x8000000000000000)).dout = ⟨0x0001000000000000, true⟩ := by decide +kernel
theorem test_permPc2_example : (after .permPc2 (withDin 0xFFE19955FAACCF1E)).dout = ⟨0x00001B02EFFC7072, true⟩ := by
  decide +kernel
theorem test_permPc2_corner : (after .permPc2 (withDin 0x0000800000000000)).dout = ⟨0, true⟩ ∧
    (after .permPc2 (withDin 0x0080000000000000)).dout = ⟨0x0000080000000000, true⟩ := by decide +kernel

/-! ### KSCHED, ROUNDF, ENCRYPT, NOP (95_test_vectors.md sections 1 to 7) -/

/-- rotl28 (95_test_vectors.md section 2.1). -/
theorem test_rotl28 : rotl28 0xF0CCAAF 1 = 0xE19955F ∧ rotl28 0xC332ABF 2 = 0x0CCAAFF := by decide

/-- Round keys of the source's printed key (section 1.4). -/
theorem test_ksched_keys : (after .ksched { State.reset with key := ⟨0x133457799BBCDEF7, true⟩ }).rk[7] =
    ⟨0xF78A3AC1BBFB, true⟩ ∧ (after .ksched { State.reset with key := ⟨0x133457799BBCDEF7, true⟩ }).rk[15] =
    ⟨0xCB3D8B1E17F7, true⟩ := by decide +kernel

/-- Records 4 and 51 of program P2. -/
theorem test_ksched_trace : (after .ksched loaded).trace[4]? = some ⟨0x1C000109, 0xE19955F⟩ ∧
    (after .ksched loaded).trace[51]? = some ⟨0x3000100B, 0xCB3D8B0E17F5⟩ := by decide +kernel

/-- Program P8: DOUT and the T.XOR record. -/
theorem test_roundf_value :
    (after .roundf { State.reset with din := ⟨0x12345678, true⟩, rkin := ⟨0x123456789ABC, true⟩ }).dout =
      ⟨0x000000006A335997, true⟩ ∧
    (after .roundf { State.reset with din := ⟨0x12345678, true⟩, rkin := ⟨0x123456789ABC, true⟩ }).trace[1]? =
      some ⟨0x3000000D, 0x1875FE52594C⟩ := by decide +kernel

/-- Records 2 and 9 of program P2's ROUNDF: the first and the last S-box. -/
theorem test_roundf_trace :
    (after .roundf { loaded with din := ⟨0xF0AAF0AA, true⟩ }).trace[2]? = some ⟨0x0601000E, 0x18⟩ ∧
    (after .roundf { loaded with din := ⟨0xF0AAF0AA, true⟩ }).trace[9]? = some ⟨0x0608000E, 0x27⟩ := by decide +kernel

/-- The source's printed key gives the rules' ciphertext, not the printed one (section 1.2). -/
theorem test_encrypt_value :
    (after .encrypt { loaded with key := ⟨0x133457799BBCDEF7, true⟩ }).dout = ⟨0x278ABEE36638490E, true⟩ := by
  decide +kernel

/-- Records 68, 276 and 280 of program P1. -/
theorem test_encrypt_trace : (after .encrypt loaded).trace[68]? = some ⟨0x20000111, 0xEF4A6544⟩ ∧
    (after .encrypt loaded).trace[276]? = some ⟨0x2000100F, 0xA7832429⟩ ∧
    (after .encrypt loaded).trace[280]? = some ⟨0x40000013, 0x0A4CD99543423234⟩ := by decide +kernel

/-- NOP keeps the trace of the command before it (program P8). -/
theorem test_nop_keeps_trace : (after .nop (after .roundf loaded)).trlen = 12 := by decide +kernel

/-- Corner inputs of the S-boxes (section 1.9): S1 and S8 at 0x21, S5 at 0x3F, S6 at 0x1E. -/
theorem test_sboxes : sboxLookup sboxes[0] 0x21 = 15 ∧ sboxLookup sboxes[7] 0x21 = 2 ∧
    sboxLookup sboxes[4] 0x3F = 3 ∧ sboxLookup sboxes[5] 0x1E = 11 := by decide

/-! ### Faults, accesses, codec, assembler -/

/-- STATUS reads 0x5 after an unwritten operand and 0x3 after a reserved command (programs P4, P5). -/
theorem test_statusWord : statusWord ⟨true, .unwrittenOperand⟩ = 0x5 ∧ statusWord ⟨true, .illegalCmd⟩ = 0x3 := by
  decide

/-- A faulted engine keeps its first cause when KSCHED is issued (program P5). -/
theorem test_faulted_ignores : (afterStep { faulted with pending := [.write 64 0x000 0x20] }).status =
    ⟨true, .illegalCmd⟩ := by decide

/-- A write to RKIN keeps 48 bits (program P8). -/
theorem test_rkin_width : (afterStep (start [.write 64 0x020 0xFFFF123456789ABC])).rkin = ⟨0x123456789ABC, true⟩ := by
  decide

/-- A record at index TRLEN reads as a draw, whatever the draw is (program P2). -/
theorem test_read_beyond_trlen : (afterStep (start [.read 64 0x10C8])).reads = [Config.draw 0 0] := by rfl

/-- The codec's worked example, both ways (section 1.5). -/
theorem test_codec : textOperand "12345678".toList = .ok 0x3132333435363738 ∧
    bitsToHex (bitsOf (0x3132333435363738 : Word)) = .ok "3132333435363738".toList ∧
    hexOperand "3132333435363738".toList = .ok 0x3132333435363738 := by decide +kernel

/-- A T.SIN value has six bits, so rendering it in hex sets the mark, whatever comes after (R67, R222 row 4). -/
theorem test_bad_width_sets_mark :
    (runToEnd (launchActions [.toHex (bitsOf (0x18 : BitVec 6)), .line (.wr .din 1)])).refused = true ∧
    (runToEnd (launchActions [.toHex (bitsOf (0x18 : BitVec 6)), .line (.wr .din 1)])).din.written = false := by
  decide +kernel

/-- The undefined reads of two engines of a platform are draws of different sources (R10, R55, R226). -/
theorem test_engines_draw_apart :
    (afterStep { State.reset with drawSource := 1, pending := [.read 64 0x010] }).reads = [Config.draw 1 0] := by rfl

/-- A lower-case digit is accepted and a text of seven characters is refused (R65, R66). -/
theorem test_codec_refuses : hexValue 'f' = some 15 ∧ textOperand "1234567".toList = .error .textLength := by decide

/-- A line of the grammar, in mixed case with a comment, and one that is not in it (R87). -/
theorem test_assembler : parseLine "WR din, 0xF0AAF0AA ; R0".toList = some [.wr .din 0xF0AAF0AA] ∧
    parseLine "perm.PC2".toList = some [.command .permPc2] ∧ parseLine "rd RK17".toList = none := by decide +kernel

/-! ### Witnesses: a state and operands that meet the hypotheses of each statement -/

/-- The next action of a run just started. -/
theorem next_start (e : HostEvent) (rest : List HostEvent) : NextAction (start (e :: rest)) e rest := ⟨rfl, rfl⟩

/-- Reserved values at the edges of R83's ranges, on an engine that is not faulted. -/
theorem witness_ReservedCommandRaisesIllegalCmd :
    (∀ v, NextAction (start [.write 64 0x000 v]) (.write 64 0x000 v) [] ∧
      (start [.write 64 0x000 v]).status.fault = false) ∧
    (0x01 : Word).toNat ∉ legalCodes ∧ (0x16 : Word).toNat ∉ legalCodes ∧ (0x1F : Word).toNat ∉ legalCodes ∧
    (0x50 : Word).toNat ∉ legalCodes ∧ (0xFF : Word).toNat ∉ legalCodes ∧ (0x100 : Word).toNat ∉ legalCodes ∧
    (0xFFFFFFFFFFFFFFFF : Word).toNat ∉ legalCodes :=
  ⟨fun _ => ⟨next_start _ _, rfl⟩, by decide, by decide, by decide, by decide, by decide, by decide, by decide⟩

theorem witness_StepRunsDecodedCommand : NextAction (start [.write 64 0x000 0x40]) (.write 64 0x000 0x40) [] ∧
    (start [.write 64 0x000 0x40]).status.fault = false ∧ decode 0x40 = .ok .encrypt :=
  ⟨next_start _ _, rfl, by decide⟩

/-- The four cases: faulted; reserved; an operand unwritten; operands written. -/
theorem witness_CommandWritePriority :
    (NextAction { faulted with pending := [.write 64 0x000 0x20] } (.write 64 0x000 0x20) [] ∧
      faulted.status.fault = true) ∧
    (NextAction (start [.write 64 0x000 0x16]) (.write 64 0x000 0x16) [] ∧ (0x16 : Word).toNat ∉ legalCodes) ∧
    (NextAction (start [.write 64 0x000 0x30]) (.write 64 0x000 0x30) [] ∧ (0x30 : Word) = encode .roundf ∧
      operandsWritten .roundf (start [.write 64 0x000 0x30]) = false) ∧
    (NextAction { loaded with pending := [.write 64 0x000 0x40] } (.write 64 0x000 0x40) [] ∧
      (0x40 : Word) = encode .encrypt ∧ operandsWritten .encrypt loaded = true ∧ loaded.status.fault = false) := by
  unfold NextAction; decide

theorem witness_UnwrittenOperandRaisesBeforeAnyWrite : State.reset.status.fault = false ∧
    operandsWritten .permE State.reset = false ∧ operandsWritten .roundf (withDin 0) = false ∧
    operandsWritten .roundf loaded = true ∧ operandsWritten .nop State.reset = true := by decide

/-- Two states that differ outside the operand bits of ROUNDF. -/
theorem witness_ResultsDependOnOperandsOnly : SameReads .roundf loaded { loaded with
      din := ⟨0xFFFFFFFF89ABCDEF, true⟩, key := ⟨0, true⟩ } ∧ SameReads .encrypt loaded { loaded with rkin := ⟨0, false⟩ } := by
  unfold SameReads; decide

theorem witness_CommandsWriteOnlyTheirResults : operandsWritten .encrypt loaded = true ∧
    operandsWritten .ksched State.reset = false := by decide

theorem witness_NopHasNoEffect : NextAction (start [.write 64 0x000 0]) (.write 64 0x000 0) [] ∧
    NextAction (start [.write 64 0x000 0x100]) (.write 64 0x000 0x100) [] ∧
    (start [.write 64 0x000 0x100]).status.fault = false ∧ (0x100 : Word).toNat % 256 = 0 ∧ (0x100 : Word).toNat ≠ 0 := by
  unfold NextAction; decide

theorem witness_PermCommandsPermuteDin : State.reset.din.written = false ∧ State.reset.status.fault = false ∧
    (withDin 1).din.written = true ∧ (6 ≤ 6 ∧ 15 ≤ 15) := by decide

theorem witness_RotlMovesPositionsLeft : (1 = 1 ∨ 1 = 2) ∧ (2 = 1 ∨ 2 = 2) ∧ 1 ≤ 28 ∧ 28 ≤ 28 := by decide

theorem witness_KeyScheduleInFull : (1 ≤ 1 ∧ 1 ≤ 16) ∧ (2 ≤ 16 ∧ 16 ≤ 16) := by decide

theorem witness_KeyRotationsAddUp : (1 ≤ 1 ∧ 1 ≤ 16) ∧ (1 ≤ 16 ∧ 16 ≤ 16) := by decide

theorem witness_KeyScheduleReturnsToStart : ConstantHalves 0x1F1F1F1F0E0E0E0E := by unfold ConstantHalves; decide +kernel

/-- Two keys that differ in a parity position (also for KschedWritesRoundKeysAndTrace). -/
theorem witness_ParityPositionsIgnored : (∀ p ∈ List.range 65, 1 ≤ p → p ∉ parityPositions →
      pos (0x133457799BBCDEF1 : Word) p = pos (0x133457799BBCDEF0 : Word) p) ∧
    (0x133457799BBCDEF1 : Word) ≠ 0x133457799BBCDEF0 := by decide +kernel

theorem witness_KschedWritesRoundKeysAndTrace : State.reset.key.written = false ∧ State.reset.status.fault = false ∧
    loaded.key.written = true := by decide

/-- Two pairs that E and the XOR make equal. -/
theorem witness_RoundFunctionReadsTheMixOnly :
    permute eTable (0xFFFFFFFF : Half) ^^^ (0xFFFFFFFFFFFF : RoundKey) = permute eTable (0 : Half) ^^^ (0 : RoundKey) := by
  decide +kernel

theorem witness_RoundfWritesFeistelValueAndTrace : (withDin 0).rkin.written = false ∧ State.reset.din.written = false ∧
    (withDin 0).status.fault = false ∧ loaded.din.written = true ∧ loaded.rkin.written = true := by decide

theorem witness_EncryptWritesCiphertextKeysAndTrace : (withDin 0).key.written = false ∧ State.reset.din.written = false ∧
    (withDin 0).status.fault = false ∧ loaded.din.written = true ∧ loaded.key.written = true := by decide

theorem witness_EncryptTraceLayout : loaded.din.written = true ∧ loaded.key.written = true ∧
    (1 ≤ 1 ∧ 1 ≤ 16) ∧ (1 ≤ 16 ∧ 16 ≤ 16) := by decide

theorem witness_EqualRoundKeysUndoThemselves :
    ∀ m n : Fin 16, (roundKeys 0x0101010101010101)[m] = (roundKeys 0x0101010101010101)[n] := by
  have h : roundKeys 0x0101010101010101 = Vector.replicate 16 0 := by decide +kernel
  intro m n
  rw [h]
  simp

theorem witness_TraceAppendWritesNextRecord : (16 < 256 ∧ 8 < 16 ∧ 6 ≤ 64) ∧ (255 < 256 ∧ 15 < 16 ∧ 64 ≤ 64) := by decide

theorem witness_CommandTraceLengths : operandsWritten .nop State.reset = true ∧ operandsWritten .permPc2 (withDin 0) = true ∧
    operandsWritten .ksched loaded = true ∧ operandsWritten .roundf loaded = true ∧
    operandsWritten .encrypt loaded = true := by decide

/-- Both ends of each reserved range, and registers beside them. -/
theorem witness_RegisterMapSlots : regAt 0x038 = none ∧ regAt 0x078 = none ∧ regAt 0x100 = none ∧ regAt 0xFF8 = none ∧
    regAt 0x21A0 = none ∧ regAt 0x2FF8 = none ∧ regAt 0x030 = some .trlen ∧ regAt 0x080 = some (.rk 0) ∧
    regAt 0x0F8 = some (.rk 15) ∧ regAt 0x1000 = some (.trhdr 0) ∧ regAt 0x2198 = some (.trval 281) := by decide

theorem witness_HostWriteStoresOrIssues :
    (∀ off ∈ [0x000, 0x008, 0x010, 0x018, 0x020, 0x028, 0x2FF8], NextAction (start [.write 64 off 0x40])
      (.write 64 off 0x40) [] ∧ off % 8 = 0 ∧ off < 0x3000) ∧ (0x40 : Word) = encode .encrypt ∧
    (start [.write 64 0x000 0x40]).status.fault = false ∧ 0x2FF8 ∉ [0x000, 0x010, 0x018, 0x020] ∧
    NextAction { faulted with pending := [.write 64 0x000 0x40] } (.write 64 0x000 0x40) [] ∧
    faulted.status.fault = true ∧
    NextAction (start [.write 64 0x000 0x50]) (.write 64 0x000 0x50) [] ∧ (0x50 : Word).toNat ∉ legalCodes := by
  unfold NextAction; decide

/-- Every register a read names, on engines where it holds a value and where it does not. -/
theorem witness_HostReadReturnsRegister :
    (∀ r : RegName, NextAction (start [.read 64 (offsetOf r)]) (.read 64 (offsetOf r)) []) ∧
    loaded.din.written = true ∧ loaded.key.written = true ∧ loaded.rkin.written = true ∧
    (after .permIp loaded).dout.written = true ∧ (after .ksched loaded).rk[15].written = true ∧
    (after .roundf loaded).trace[11]? = some ⟨0x20000010, (after .roundf loaded).dout.value⟩ ∧
    registerValue (.trval 0) State.reset = none ∧ registerValue (.rk 0) State.reset = none :=
  ⟨fun _ => next_start _ _, by decide, by decide, by decide, by decide +kernel, by decide +kernel, by decide +kernel,
    by decide, by decide⟩

/-- A reserved offset, a read-only register, each kind of unwritten register, and a record at index TRLEN. -/
theorem witness_UndefinedAccessesDrawOrIgnore :
    (∀ off ∈ [0x038, 0x078, 0x100, 0xFF8, 0x21A0, 0x2FF8, 0x008, 0x010, 0x018, 0x020, 0x028, 0x080, 0x0F8, 0x1000, 0x2198],
      NextAction (start [.read 64 off]) (.read 64 off) [] ∧ NextAction (start [.write 64 off 1]) (.write 64 off 1) [] ∧
        off % 8 = 0 ∧ off < 0x3000) ∧
    regAt 0x2FF8 = none ∧ regAt 0x008 = some .status ∧ RegName.status ∉ [RegName.cmd, .din, .key, .rkin] ∧
    (start []).din.written = false ∧ (start []).key.written = false ∧ (start []).rkin.written = false ∧
    (start []).dout.written = false ∧ regAt 0x0F8 = some (.rk 15) ∧ (start []).rk[15].written = false ∧
    regAt 0x1000 = some (.trhdr 0) ∧ (start []).trlen ≤ 0 := by
  unfold NextAction; decide

/-- One action for each cause of a refusal, a legal access at the top of the window, and a run that has ended. -/
theorem witness_RefusedActionsSetTheMark :
    NextAction (start [.write 32 0x010 0]) (.write 32 0x010 0) [] ∧ ¬(32 = 64 ∧ 0x010 % 8 = 0 ∧ 0x010 < 0x3000) ∧
    NextAction (start [.read 64 0x3000]) (.read 64 0x3000) [] ∧ ¬(64 = 64 ∧ 0x3000 % 8 = 0 ∧ 0x3000 < 0x3000) ∧
    NextAction (start [.read 64 0x004]) (.read 64 0x004) [] ∧ ¬(64 = 64 ∧ 0x004 % 8 = 0 ∧ 0x004 < 0x3000) ∧
    [HostEvent.refuse .textLength] = expandLine (.ldtext .din "1234567".toList) ∧ "1234567".toList.length ≠ 8 ∧
    [HostEvent.refuse .textCode] = expandLine (.ldtext .key (List.replicate 8 (Char.ofNat 256))) ∧
    255 < (Char.ofNat 256).toNat ∧
    [HostEvent.refuse .hexWidth] = expandAction (.toHex [true]) ∧ [true].length % 4 ≠ 0 ∧
    expandAction (.toHex [true, false, true, true]) = [] ∧
    [HostEvent.refuse .hexText] = expandLine (.ldhex .din "0123456789ABCDE".toList) ∧
    [HostEvent.refuse .hexText] = expandLine (.ldhex .din "0123456789ABCDEG".toList) ∧ hexValue 'G' = none ∧
    NextAction (start [.read 64 0x2FF8]) (.read 64 0x2FF8) [] ∧ (setRefused State.reset).refused = true := by
  unfold NextAction; decide +kernel

theorem witness_ReadAfterWriteReturnsValue : State.reset.refused = false ∧ RegName.din ∈ [RegName.din, .key] ∧
    RegName.key ∈ [RegName.din, .key] := by decide

theorem witness_EncryptionSequenceReadsResults : State.reset.refused = false ∧ State.reset.status = ⟨false, .none⟩ := by
  decide

theorem witness_FaultedEngineIgnoresCommands : faulted.status.fault = true ∧
    (∀ off ∈ [0x000, 0x010, 0x018, 0x020], NextAction { faulted with pending := [.write 64 off 0x40] }
      (.write 64 off 0x40) []) ∧
    NextAction { faulted with pending := [.read 64 0x2FF8] } (.read 64 0x2FF8) [] ∧ 0x2FF8 % 8 = 0 ∧ 0x2FF8 < 0x3000 := by
  unfold NextAction; decide

theorem witness_FaultLastsUntilReset : faulted.status.fault = true ∧
    HostEvent.reset ∉ ({ faulted with pending := [.write 64 0x000 0x40, .write 64 0x010 1] } : State).pending := by decide

/-- Both kinds of step of a faulted engine: a reset and an ignored command. -/
theorem witness_OnlyResetClearsFault :
    NextAction { faulted with pending := [.reset] } .reset [] ∧ faulted.status.fault = true ∧
    (afterStep { faulted with pending := [.reset] }).status = ⟨false, .none⟩ ∧
    (afterStep { faulted with pending := [.write 64 0x000 0x40] }).status = faulted.status := by
  unfold NextAction; decide

theorem witness_ResetClearsEveryRegister : NextAction { faulted with pending := [.reset] } .reset [] ∧
    faulted.din.written = true := by unfold NextAction; decide

/-- Two states that differ only in what unwritten registers hold. -/
theorem witness_UnwrittenValuesAreNeverSeen :
    State.Agree (start [.read 64 0x010]) { start [.read 64 0x010] with din := ⟨7, false⟩, rkin := ⟨9, false⟩ } ∧
    start [.read 64 0x010] ≠ { start [.read 64 0x010] with din := ⟨7, false⟩, rkin := ⟨9, false⟩ } := by
  refine ⟨⟨⟨rfl, fun h => ?_⟩, ⟨rfl, fun _ => rfl⟩, ⟨rfl, fun h => ?_⟩, ⟨rfl, fun _ => rfl⟩, fun _ => ⟨rfl, fun _ => rfl⟩,
    rfl, rfl, rfl, rfl, rfl, rfl, rfl⟩, by decide⟩ <;> cases h

/-- A state other than reset's that meets the invariant: a faulted engine with its operands loaded. -/
theorem witness_StepKeepsInvariant : faulted.Inv :=
  ⟨by decide, by decide, by simp [faulted, loaded, State.reset], by decide, by decide, by decide⟩

/-- Also for HexRoundTrip. -/
theorem witness_BitsToHexDigits : (bitsOf (0xF : BitVec 4)).length % 4 = 0 ∧
    (1 ≤ 1 ∧ 1 ≤ (bitsOf (0xF : BitVec 4)).length / 4) := by decide

theorem witness_TextAndHexPositions : "DESdemo!".toList.length = 8 ∧ (∀ c ∈ "DESdemo!".toList, c.toNat ≤ 255) ∧
    "0123456789abCDEF".toList.length = 16 ∧ (∀ c ∈ "0123456789abCDEF".toList, hexValue c ≠ none) := by
  have h1 : ("DESdemo!".toList.all fun c => decide (c.toNat ≤ 255)) = true := by decide +kernel
  have h2 : ("0123456789abCDEF".toList.all fun c => decide (hexValue c ≠ none)) = true := by decide +kernel
  exact ⟨by decide +kernel, fun c hc => of_decide_eq_true (List.all_eq_true.mp h1 c hc), by decide +kernel,
    fun c hc => of_decide_eq_true (List.all_eq_true.mp h2 c hc)⟩

/-- A platform of two engines. -/
theorem witness_EnginesShareNothing :
    (⟨[⟨0, State.reset⟩, ⟨0x3000, loaded⟩]⟩ : Platform).engines[1]? = some ⟨0x3000, loaded⟩ ∧ 0 ≠ 1 :=
  ⟨by simp, by decide⟩

theorem witness_HostLinesExpand : textOperand "mykey123".toList = .ok 0x6D796B6579313233 ∧
    hexOperand "0123456789abCDEF".toList = .ok 0x0123456789ABCDEF ∧ "123456789".toList.length ≠ 8 := by decide +kernel

end Sys2Proof.Tests
end

section
/-! SUPPORT and PROOFS. The reset state (spec/10_state.md rules R35 and R40): what a host read finds there, and
that a reset of the engine from any state meets the launch premise of R242. -/

namespace Sys2Proof.Machine

@[simp] theorem unwritten_written (w : Nat) : (Reg.unwritten w).written = false := rfl
@[simp] theorem clear_fault : Status.clear.fault = false := rfl

@[simp] theorem registerValue_cmd (s : State) : registerValue .cmd s = some 0 := rfl
@[simp] theorem registerValue_status (s : State) : registerValue .status s = some (statusWord s.status) := rfl
@[simp] theorem registerValue_trlen (s : State) : registerValue .trlen s = some (BitVec.ofNat 64 s.trlen) := rfl

@[simp] theorem statusWord_clear : statusWord Status.clear = 0 := by decide

@[simp] theorem resetEngine_trlen (s : State) : (resetEngine s).trlen = 0 := rfl

/-- The state after reset is what a reset of the engine makes of it. -/
theorem resetEngine_reset : resetEngine State.reset = State.reset := rfl

/-- A reset leaves no fault and clears every written flag (R40, R242), from whatever state. -/
theorem resetEngine_launch (s : State) : (resetEngine s).Launch := by
  simp [State.Launch]

/-- STATUS, TRLEN and CMD read as 0 after a reset (R23, R40), from whatever state. -/
theorem registerValue_resetEngine (s : State) :
    registerValue .status (resetEngine s) = some 0 ∧ registerValue .trlen (resetEngine s) = some 0 ∧
      registerValue .cmd (resetEngine s) = some 0 := by
  simp

/-- Settles O44: the state after reset is one a reset of the engine leaves. -/
theorem resetStateMeetsLaunchPremise : Obligations.ResetStateMeetsLaunchPremise := by
  unfold Obligations.ResetStateMeetsLaunchPremise
  rw [← resetEngine_reset]
  exact ⟨resetEngine_launch _, registerValue_resetEngine _⟩

end Sys2Proof.Machine
end

section
/-! SUPPORT. The decoder and the encoder undo each other (spec/30_encoding.md rules R80 to R83). -/

namespace Sys2Proof

/-- A class without selectors decodes MINOR 0 alone (R80). -/
theorem decodePlain_eq_ok {i j : Instr} {minor : Nat} (h : decodePlain i minor = .ok j) : minor = 0 ∧ j = i := by
  unfold decodePlain at h
  split at h
  · exact ⟨rfl, by simpa using h.symm⟩
  · cases h

/-- A selector that decodes is the MINOR of its command, whose MAJOR is 1 (R86). -/
theorem decodeSelector_eq_ok {minor : Nat} {i : Instr} (h : decodeSelector minor = .ok i) :
    (opcodeOf i).1 = 1 ∧ minor = (opcodeOf i).2.toNat := by
  unfold decodeSelector at h
  split at h <;> cases h <;> exact ⟨rfl, rfl⟩

/-- A MAJOR and a MINOR that decode are the opcode of what they decode to (R82). -/
theorem decodeClass_eq_ok {major minor : Nat} {i : Instr} (h : decodeClass major minor = .ok i) :
    major = (opcodeOf i).1.toNat ∧ minor = (opcodeOf i).2.toNat := by
  unfold decodeClass at h
  split at h
  case h_2 =>
    obtain ⟨hmajor, hminor⟩ := decodeSelector_eq_ok h
    exact ⟨by rw [hmajor]; rfl, hminor⟩
  case h_6 => cases h
  all_goals
    obtain ⟨rfl, rfl⟩ := decodePlain_eq_ok h
    exact ⟨rfl, rfl⟩

/-- A word is its three fields side by side (R80). -/
theorem fieldsOf_append (v : Word) : (fieldsOf v).zero ++ (fieldsOf v).major ++ (fieldsOf v).minor = v := by
  have hhigh : (fieldsOf v).zero ++ (fieldsOf v).major = v.extractLsb' 4 60 :=
    BitVec.extractLsb'_append_extractLsb'_eq_extractLsb' rfl
  have hall : v.extractLsb' 4 60 ++ (fieldsOf v).minor = v.extractLsb' 0 64 :=
    BitVec.extractLsb'_append_extractLsb'_eq_extractLsb' rfl
  rw [hhigh, hall, BitVec.extractLsb'_eq_self]

/-- No word but a command's own decodes to it (R82). -/
theorem eq_encode_of_decode {v : Word} {i : Instr} (h : decode v = .ok i) : v = encode i := by
  simp only [decode] at h
  split at h
  case isTrue hzero =>
    obtain ⟨hmajor, hminor⟩ := decodeClass_eq_ok h
    rw [← fieldsOf_append v, hzero, BitVec.eq_of_toNat_eq hmajor, BitVec.eq_of_toNat_eq hminor, encode]
  case isFalse => cases h

/-- The word of a command decodes to it (R82). -/
@[simp] theorem decode_encode (i : Instr) : decode (encode i) = .ok i := by cases i <;> decide

/-- The word of a command is one of the values R82 lists. -/
theorem encode_mem_legalCodes (i : Instr) : (encode i).toNat ∈ Claims.legalCodes := by cases i <;> decide

/-- A value that R82 does not list is rejected (R83). -/
theorem decode_error_of_not_legal {v : Word} (h : v.toNat ∉ Claims.legalCodes) : ∃ e, decode v = .error e := by
  cases hd : decode v with
  | error e => exact ⟨e, rfl⟩
  | ok i => exact absurd (eq_encode_of_decode hd ▸ encode_mem_legalCodes i) h

end Sys2Proof
end

section
/-! SUPPORT. The register map in both directions, and which accesses are legal (spec/20_memory.md rules R50, R51
and R54). -/

namespace Sys2Proof.Machine

/-- The slot at a register's offset is the register's (R51). -/
@[simp] theorem regAt_offsetOf (r : RegName) : regAt (offsetOf r) = some r := by
  cases r with
  | rk n =>
    rw [offsetOf, regAt]
    iterate 8 rw [if_neg (by omega)]
    rw [dif_pos (by omega), if_pos (by omega)]
    simp
  | trhdr j =>
    rw [offsetOf, regAt]
    iterate 8 rw [if_neg (by omega)]
    rw [dif_neg (by omega), if_neg (by omega), dif_pos (by omega), if_pos (by omega)]
    simp
  | trval j =>
    rw [offsetOf, regAt]
    iterate 8 rw [if_neg (by omega)]
    rw [dif_neg (by omega), if_neg (by omega), dif_pos (by omega), if_neg (by omega), if_pos (by omega)]
    simp [Fin.ext_iff]; omega
  | _ => rfl

/-- A register's slot starts nowhere but at its offset (R51). -/
theorem eq_offsetOf_of_regAt {offset : Nat} {r : RegName} (h : regAt offset = some r) : offset = offsetOf r := by
  revert h
  fun_cases regAt offset <;> rintro ⟨⟩
  all_goals
    simp only [offsetOf]
    omega

/-- A 64-bit access is legal at the multiples of 8 inside the window (R54). -/
theorem accessLegal_64_iff {offset : Nat} : accessLegal 64 offset = true ↔ offset % 8 = 0 ∧ offset < windowSize := by
  simp [accessLegal]

/-- Every register has a legal offset (R51, R54). -/
@[simp] theorem accessLegal_offsetOf (r : RegName) : accessLegal 64 (offsetOf r) = true := by
  rw [accessLegal_64_iff]
  cases r with
  | rk n => simp only [offsetOf, windowSize]; omega
  | trhdr j => simp only [offsetOf, windowSize]; omega
  | trval j => simp only [offsetOf, windowSize]; omega
  | _ => decide

end Sys2Proof.Machine
end

section
/-! SUPPORT and PROOFS. What a legal host write does (spec/20_memory.md rules R52 and R55, spec/30_encoding.md rule
R81). -/

namespace Sys2Proof.Machine

open Sys2Proof.Claims

/-- Every command answers a next state (R229). -/
theorem exec_next (i : Instr) (s : State) : ∃ t, exec i s = .next t := by
  rcases exec_cases i s with ⟨-, h⟩ | ⟨-, -, h⟩ | ⟨-, -, h⟩ <;> exact ⟨_, h⟩

/-- Every write to CMD answers a next state. -/
theorem issueCommand_next (v : Word) (s : State) : ∃ t, issueCommand v s = .next t := by
  rcases issueCommand_cases v s with ⟨-, h⟩ | ⟨-, -, h⟩ | ⟨-, i, -, h⟩
  · exact ⟨_, h⟩
  · exact ⟨_, h⟩
  · exact h ▸ exec_next i s

/-- Every host write answers a next state. -/
theorem hostWrite_next (offset : Nat) (v : Word) (s : State) : ∃ t, hostWrite offset v s = .next t := by
  rcases hostWrite_cases offset v s with ⟨-, h⟩ | ⟨-, h⟩ | ⟨r, -, -, h⟩
  · exact ⟨_, h⟩
  · exact h ▸ issueCommand_next v s
  · exact ⟨_, h⟩

/-- A faulted engine ignores a write to CMD (R217, R218). -/
theorem issueCommand_of_faulted {v : Word} {s : State} (h : s.status.fault = true) : issueCommand v s = .next s := by
  simp [issueCommand, h]

/-- A reserved value raises ILLEGAL_CMD and does nothing else (R83, R212). -/
theorem issueCommand_of_reserved {v : Word} {s : State} (hf : s.status.fault = false) (hv : v.toNat ∉ legalCodes) :
    issueCommand v s = .next { s with status := ⟨true, .illegalCmd⟩ } := by
  obtain ⟨e, he⟩ := decode_error_of_not_legal hv
  simp [issueCommand, hf, he, raiseFault_of_clear hf]

/-- The word of a command performs it (R81). -/
theorem issueCommand_encode {s : State} (i : Instr) (h : s.status.fault = false) :
    issueCommand (encode i) s = exec i s := by
  simp [issueCommand, h]

/-- A write at CMD's offset issues a command (R52). -/
theorem hostWrite_cmd (v : Word) (s : State) : hostWrite (offsetOf .cmd) v s = issueCommand v s := by
  simp [hostWrite]

/-- A write outside CMD, DIN, KEY and RKIN is ignored, on a register or not (R55). -/
theorem hostWrite_ignored {offset : Nat} (h : offset ∉ [0x000, 0x010, 0x018, 0x020]) (v : Word) (s : State) :
    hostWrite offset v s = .next s := by
  cases hr : regAt offset with
  | none => simp [hostWrite, hr]
  | some r =>
    have hoff := eq_offsetOf_of_regAt hr
    cases r with
    | cmd => exact absurd (by simp [hoff, offsetOf]) h
    | din => exact absurd (by simp [hoff, offsetOf]) h
    | key => exact absurd (by simp [hoff, offsetOf]) h
    | rkin => exact absurd (by simp [hoff, offsetOf]) h
    | _ => simp [hostWrite, hr, writeRegister]

/-- RKIN takes bits 47:0 of the word written to it (R27). -/
theorem setRkin_lowBits (s : State) (v : Word) :
    s.setRkin (lowBits 48 v) = { s with rkin := ⟨v.extractLsb' 0 48, true⟩ } := by
  rw [State.setRkin, lowBits, BitVec.setWidth_eq_extractLsb' (by decide), Reg.holding]

/-- A step whose next action is a legal write performs it. -/
theorem step_write {s : State} {offset : Nat} {v : Word} {rest : List HostEvent}
    (hn : NextAction s (.write 64 offset v) rest) (h8 : offset % 8 = 0) (hlt : offset < windowSize) :
    step s = hostWrite offset v { s with pending := rest } := by
  obtain ⟨hr, hp⟩ := hn
  rw [step_of_pending hr hp, performEvent, if_pos (accessLegal_64_iff.mpr ⟨h8, hlt⟩)]

/-- Settles O34: each clause is what `hostWrite` does at that offset. -/
theorem hostWriteStoresOrIssues : Obligations.HostWriteStoresOrIssues := by
  unfold Obligations.HostWriteStoresOrIssues
  intro s off v rest hn h8 hlt
  rw [step_write hn h8 hlt]
  refine ⟨hostWrite_next off v _, ?din, ?key, ?rkin, ?faulted, ?reserved, ?command, fun h => hostWrite_ignored h v _⟩
  case din => rintro rfl; rfl
  case key => rintro rfl; rfl
  case rkin => rintro rfl; exact congrArg Host.Outcome.next (setRkin_lowBits _ v)
  case faulted =>
    rintro rfl hf
    exact (hostWrite_cmd v _).trans (issueCommand_of_faulted hf)
  case reserved =>
    rintro rfl hf hv
    exact (hostWrite_cmd v _).trans (issueCommand_of_reserved hf hv)
  case command =>
    rintro rfl i rfl hf
    exact (hostWrite_cmd _ _).trans (issueCommand_encode i hf)

end Sys2Proof.Machine
end

section
/-! SUPPORT and PROOFS. What a host read of a register returns (spec/20_memory.md rules R53 and R55, spec/10_state.md
rule R24). -/

namespace Sys2Proof.Machine

open Sys2Proof.Claims

/-- A written register holds its value (R35). -/
theorem held_of_written {w : Nat} {r : Reg w} (h : r.written = true) : r.held = some r.value := by
  simp [Reg.held, h]

/-- What a register reads as does not depend on the accesses to come. -/
@[simp] theorem registerValue_pending (r : RegName) (s : State) (es : List HostEvent) :
    registerValue r { s with pending := es } = registerValue r s := by
  cases r <;> rfl

/-- STATUS reads as FAULT in bit 0, CAUSE in bits 3:1 and zeros above (R24). -/
theorem statusWord_fields (st : Status) : (statusWord st).getLsbD 0 = st.fault ∧
    (statusWord st).extractLsb' 1 3 = st.cause.code ∧ (statusWord st).extractLsb' 4 60 = 0 := by
  obtain ⟨fault, cause⟩ := st
  cases fault <;> cases cause <;> decide

/-- A step whose next action reads a register performs the read. -/
theorem step_read_offsetOf {s : State} {r : RegName} {rest : List HostEvent}
    (hn : NextAction s (.read 64 (offsetOf r)) rest) :
    step s = .next (hostRead (offsetOf r) { s with pending := rest }) := by
  obtain ⟨hr, hp⟩ := hn
  rw [step_of_pending hr hp, performEvent, if_pos (accessLegal_offsetOf r)]

/-- A register that holds a value is read as that value, and nothing else happens (R53). -/
theorem step_read_of_value {s : State} {r : RegName} {rest : List HostEvent} {v : Word}
    (hn : NextAction s (.read 64 (offsetOf r)) rest) (hv : registerValue r s = some v) :
    step s = .next { s with pending := rest, reads := s.reads ++ [v] } := by
  rw [step_read_offsetOf hn]
  simp [hostRead, hv, observeRead]

/-- A register that holds no value is read as the next draw (R55). -/
theorem step_read_of_no_value {s : State} {r : RegName} {rest : List HostEvent}
    (hn : NextAction s (.read 64 (offsetOf r)) rest) (hv : registerValue r s = none) :
    step s = .next { s with pending := rest, reads := s.reads ++ [Config.draw s.drawSource s.drawCount],
                            drawCount := s.drawCount + 1 } := by
  rw [step_read_offsetOf hn]
  simp [hostRead, hv, observeDraw]

/-- Settles O35: each register's clause is its `registerValue`. -/
theorem hostReadReturnsRegister : Obligations.HostReadReturnsRegister := by
  unfold Obligations.HostReadReturnsRegister
  intro s r rest hn gives
  have hgives {v : Word} (hv : registerValue r s = some v) : gives v := step_read_of_value hn hv
  refine ⟨?cmd, ?status, ?din, ?key, ?rkin, ?dout, ?trlen, ?rk, ?trhdr, ?trval, ?none⟩
  case cmd => rintro rfl; exact hgives rfl
  case status => rintro rfl; exact ⟨_, hgives rfl, statusWord_fields _⟩
  case din => rintro rfl h; exact hgives (held_of_written h)
  case key => rintro rfl h; exact hgives (held_of_written h)
  case rkin => rintro rfl h; exact hgives (congrArg (Option.map placed) (held_of_written h))
  case dout => rintro rfl h; exact hgives (held_of_written h)
  case trlen => rintro rfl; exact hgives rfl
  case rk => rintro n rfl h; exact hgives (congrArg (Option.map placed) (held_of_written h))
  case trhdr => rintro j x rfl h; exact hgives (congrArg (Option.map TraceRecord.hdr) h)
  case trval => rintro j x rfl h; exact hgives (congrArg (Option.map TraceRecord.val) h)
  case none => exact fun h => ⟨_, _, step_read_of_no_value hn h⟩

end Sys2Proof.Machine
end

section
/-! SUPPORT and PROOFS. bits_to_hex digit by digit (spec/20_memory.md rule R64). -/

namespace Sys2Proof.Machine

/-- The uppercase hexadecimal digits (R64). -/
def upperHexDigits : List Char := ['0', '1', '2', '3', '4', '5', '6', '7', '8', '9', 'A', 'B', 'C', 'D', 'E', 'F']

/-- A value below 16 is written as an uppercase digit that reads back as that value (R64, R66). -/
theorem hexDigit_spec {n : Nat} (h : n < 16) : hexValue (hexDigit n) = some n ∧ hexDigit n ∈ upperHexDigits := by
  revert n
  decide

/-- A bit string that is not four positions and a rest is shorter than four. -/
theorem length_lt_four {bs : List Bool} (h : ∀ a b c d rest, bs = a :: b :: c :: d :: rest → False) :
    bs.length < 4 := by
  match bs with
  | [] | [_] | [_, _] | [_, _, _] => simp
  | a :: b :: c :: d :: rest => exact (h a b c d rest rfl).elim

/-- There are a quarter as many groups of four as positions. -/
@[simp] theorem nibbles_length (bs : List Bool) : (nibbles bs).length = bs.length / 4 := by
  fun_induction nibbles bs with
  | case1 a b c d rest ih => simp only [List.length_cons, ih]; omega
  | case2 bs h => exact (Nat.div_eq_of_lt (length_lt_four h)).symm

/-- Group k, counted from 0, is the four positions after the first 4k. -/
theorem nibbles_getElem? {bs : List Bool} {k : Nat} (hk : k < bs.length / 4) :
    (nibbles bs)[k]? = some ((bs.drop (4 * k)).take 4) := by
  fun_induction nibbles bs generalizing k with
  | case1 a b c d rest ih =>
    cases k with
    | zero => rfl
    | succ k =>
      simp only [List.length_cons] at hk
      simpa [Nat.mul_succ] using ih (k := k) (by omega)
  | case2 bs h =>
    have := length_lt_four h
    omega

/-- A group of four positions has a value below 16. -/
theorem natOfBits_lt_of_mem_nibbles {bs q : List Bool} (h : q ∈ nibbles bs) : natOfBits q < 16 := by
  fun_induction nibbles bs with
  | case1 a b c d rest ih =>
    rcases List.mem_cons.mp h with rfl | hrest
    · exact natOfBits_lt [a, b, c, d]
    · exact ih hrest
  | case2 => cases h

/-- Settles O51: digit k is the hexadecimal digit of group k-1, whose value is below 16. -/
theorem bitsToHexDigits : Obligations.BitsToHexDigits := by
  unfold Obligations.BitsToHexDigits
  intro bs hlen
  refine ⟨_, if_pos hlen, by simp, ?value, ?upper⟩
  case value =>
    intro k h1 hk
    have hget := nibbles_getElem? (bs := bs) (k := k - 1) (by omega)
    have hlt := natOfBits_lt_of_mem_nibbles (List.mem_of_getElem? hget)
    refine ⟨_, by rw [List.getElem?_map, hget]; rfl, ?_⟩
    rw [(hexDigit_spec hlt).1, show 4 * k - 4 = 4 * (k - 1) by omega]
  case upper =>
    intro c hc
    obtain ⟨q, hq, rfl⟩ := List.mem_map.mp hc
    exact (hexDigit_spec (natOfBits_lt_of_mem_nibbles hq)).2

end Sys2Proof.Machine
end

section
/-! SUPPORT and PROOFS. The cases of a write to CMD, as steps (spec/30_encoding.md rules R81 and R83,
spec/60_exceptions.md rules R212, R216 and R217). -/

namespace Sys2Proof.Machine

open Sys2Proof.Claims

/-- Whether a command's operands are written does not depend on the accesses to come. -/
@[simp] theorem operandsWritten_pending (i : Instr) (s : State) (es : List HostEvent) :
    operandsWritten i { s with pending := es } = operandsWritten i s := by
  cases i <;> rfl

/-- The work of a command leaves STATUS as it is. -/
@[simp] theorem work_status (i : Instr) (s : State) : (work i s).status = s.status := by
  cases i <;> rfl

/-- NOP has no operand that could be unwritten (R216). -/
theorem ne_nop_of_operands_unwritten {i : Instr} {s : State} (h : operandsWritten i s = false) : i ≠ .nop := by
  rintro rfl
  cases h

/-- A command with an unwritten operand raises UNWRITTEN_OPERAND and writes nothing else (R216, R219). -/
theorem exec_of_operands_unwritten {i : Instr} {s : State} (hf : s.status.fault = false)
    (hw : operandsWritten i s = false) : exec i s = .next { s with status := ⟨true, .unwrittenOperand⟩ } := by
  rw [exec_eq_withOperands (ne_nop_of_operands_unwritten hw), hw, withOperands_false, raiseFault_of_clear hf]

/-- A command with its operands written raises nothing (R216). -/
theorem exec_of_operands_written {i : Instr} {s : State} (hw : operandsWritten i s = true) :
    ∃ t, exec i s = .next t ∧ t.status = s.status := by
  rcases exec_cases i s with ⟨-, he⟩ | ⟨-, -, he⟩ | ⟨-, hunwritten, -⟩
  · exact ⟨s, he, rfl⟩
  · exact ⟨_, he, by simp⟩
  · simp [hw] at hunwritten

/-- A step whose next action writes CMD issues the value written (R52, R81). -/
theorem step_write_cmd {s : State} {v : Word} {rest : List HostEvent} (hn : NextAction s (.write 64 0x000 v) rest) :
    step s = issueCommand v { s with pending := rest } :=
  (step_write hn (by decide) (by decide)).trans (hostWrite_cmd v _)

/-- A step whose next action writes a command's word to CMD of an engine that is not faulted performs it (R81). -/
theorem step_write_encode {s : State} {i : Instr} {rest : List HostEvent}
    (hn : NextAction s (.write 64 0x000 (encode i)) rest) (hf : s.status.fault = false) :
    step s = exec i { s with pending := rest } :=
  (step_write_cmd hn).trans (issueCommand_encode i hf)

/-- Settles O4: the step issues the value, and a reserved value only raises the fault. -/
theorem reservedCommandRaisesIllegalCmd : Obligations.ReservedCommandRaisesIllegalCmd := by
  unfold Obligations.ReservedCommandRaisesIllegalCmd
  intro s v rest hn hf hv
  exact (step_write_cmd hn).trans (issueCommand_of_reserved hf hv)

/-- Settles O6: each case is what `issueCommand` does there, and for a legal word what `exec` does. -/
theorem commandWritePriority : Obligations.CommandWritePriority := by
  unfold Obligations.CommandWritePriority
  intro s v rest hn
  refine ⟨?faulted, reservedCommandRaisesIllegalCmd s v rest hn, ?unwritten, ?written⟩
  case faulted => exact fun hf => (step_write_cmd hn).trans (issueCommand_of_faulted hf)
  case unwritten =>
    rintro i hf rfl hw
    exact (step_write_encode hn hf).trans (exec_of_operands_unwritten hf (by simpa using hw))
  case written =>
    rintro i hf rfl hw
    obtain ⟨t, ht, hstatus⟩ := exec_of_operands_written (s := { s with pending := rest }) (by simpa using hw)
    exact ⟨t, (step_write_encode hn hf).trans ht, ht, hstatus⟩

end Sys2Proof.Machine
end

section
/-! SUPPORT and PROOFS. The six PERM commands and the reserved table selectors (spec/40_permutation.md rules R100 and
R109, spec/30_encoding.md rule R86). -/

namespace Sys2Proof.Machine

open Sys2Proof.Claims

/-- With DIN unwritten the PERM template raises UNWRITTEN_OPERAND and writes nothing else (R109, R216). -/
theorem execPerm_of_din_unwritten {win wout : Nat} (T : PermTable win wout) {s : State} (hw : s.din.written = false)
    (hf : s.status.fault = false) : execPerm T s = .next { s with status := ⟨true, .unwrittenOperand⟩ } := by
  rw [execPerm, hw, withOperands_false, raiseFault_of_clear hf]

/-- With DIN written the PERM template clears the trace and puts the permuted operand, zero-extended, in DOUT (R109). -/
theorem execPerm_of_din_written {win wout : Nat} (T : PermTable win wout) {s : State} (hw : s.din.written = true) :
    execPerm T s =
      .next { s with trace := [], dout := ⟨(permute T (s.din.value.setWidth win)).setWidth 64, true⟩ } := by
  rw [execPerm, hw, withOperands_true]
  rfl

/-- Position k of permute(s, T) is position t of s, where t is entry k of the table (R100). -/
theorem exists_entry_pos_permute {win wout : Nat} (T : PermTable win wout) (s : BitVec win) {k : Nat} (h1 : 1 ≤ k)
    (hk : k ≤ wout) : ∃ t, T.entries[k - 1]? = some t ∧ pos (permute T s) k = pos s t :=
  ⟨_, List.getElem?_eq_getElem _, pos_permute T s h1 hk⟩

/-- A command performed by the PERM template with table T meets R109 for T. -/
theorem permRule_of_exec_eq_execPerm {win wout : Nat} {i : Instr} {T : PermTable win wout}
    (h : exec i = execPerm T) : PermRule i T := by
  intro s
  rw [h]
  exact ⟨execPerm_of_din_unwritten T, fun hw =>
    ⟨_, fun _ => exists_entry_pos_permute T _, execPerm_of_din_written T hw⟩⟩

/-- The fields of the word 0x10+m: class 1 with table selector m (R80, R86). -/
theorem fieldsOf_selector_word {m : Nat} (h : m < 16) :
    fieldsOf (BitVec.ofNat 64 (0x10 + m)) = ⟨0, 1, BitVec.ofNat 4 m⟩ := by
  revert m
  decide

/-- The table selectors above 5 are reserved (R86). -/
theorem decodeSelector_reserved {m : Nat} (h : 6 ≤ m) : decodeSelector m = .error .reservedSelector := by
  obtain ⟨n, rfl⟩ := Nat.exists_eq_add_of_le' h
  rfl

/-- The words of class 1 with a reserved table selector are no command (R83, R86). -/
theorem decode_reserved_selector_word {m : Nat} (h6 : 6 ≤ m) (h15 : m ≤ 15) :
    decode (BitVec.ofNat 64 (0x10 + m)) = .error .reservedSelector := by
  have hminor : (BitVec.ofNat 4 m).toNat = m := Nat.mod_eq_of_lt (by omega)
  rw [decode, fieldsOf_selector_word (by omega), if_pos rfl, hminor]
  exact decodeSelector_reserved h6

/-- Settles O12: each PERM command is the template with its own table, and the selectors above 5 are reserved. -/
theorem permCommandsPermuteDin : Obligations.PermCommandsPermuteDin := by
  unfold Obligations.PermCommandsPermuteDin
  exact ⟨permRule_of_exec_eq_execPerm rfl, permRule_of_exec_eq_execPerm rfl, permRule_of_exec_eq_execPerm rfl,
    permRule_of_exec_eq_execPerm rfl, permRule_of_exec_eq_execPerm rfl, permRule_of_exec_eq_execPerm rfl,
    fun _ => decode_reserved_selector_word⟩

end Sys2Proof.Machine
end

section
/-! SUPPORT and PROOFS. The rounds of the key schedule, each from the round before it (spec/41_key_schedule.md rules
R131 to R137). -/

namespace Sys2Proof.Machine

open Sys2Proof.Claims

/-- SHIFT[i+1] is 1 in the rounds 1, 2, 9 and 16 and else 2 (R134). -/
theorem shiftSchedule_get {i : Nat} (hi : i < 16) :
    shiftSchedule[i]? = some (if i + 1 ∈ [1, 2, 9, 16] then 1 else 2) := by
  revert i
  decide

/-- Round n made from the halves of the round before it and its shift (R135, R136). -/
def keyRoundFrom (n : Nat) (c d : KeyHalf) (s : Nat) : KeyRound :=
  ⟨n, rotl28 c s, rotl28 d s, permute pc2Table (rotl28 c s ++ rotl28 d s)⟩

/-- The first round starts from the halves given; the others start from the first round's. -/
theorem keyRounds_cons (n : Nat) (c d : KeyHalf) (s : Nat) (rest : List Nat) :
    keyRounds n c d (s :: rest) = keyRoundFrom n c d s :: keyRounds (n + 1) (rotl28 c s) (rotl28 d s) rest := rfl

/-- Each later round is made from the round before it (R135). -/
theorem keyRounds_get_succ {shifts : List Nat} {n i s : Nat} {c d : KeyHalf} {q : KeyRound}
    (hq : (keyRounds n c d shifts)[i]? = some q) (hs : shifts[i + 1]? = some s) :
    (keyRounds n c d shifts)[i + 1]? = some (keyRoundFrom (q.n + 1) q.c q.d s) := by
  induction shifts generalizing n c d i with
  | nil => simp at hs
  | cons s₀ rest ih =>
    rw [List.getElem?_cons_succ] at hs
    rw [keyRounds_cons] at hq ⊢
    cases i with
    | zero =>
      cases rest with
      | nil => simp at hs
      | cons s₁ tail =>
        obtain rfl := Option.some.inj hs
        obtain rfl := Option.some.inj hq
        rfl
    | succ i => exact ih hq hs

/-- Settles O16: round 1 is made from the halves of PC-1, and each later round from the round before it. -/
theorem keyScheduleInFull : Obligations.KeyScheduleInFull := by
  unfold Obligations.KeyScheduleInFull
  refine ⟨?shifts, fun key => ⟨rfl, rfl, rfl, ks_rounds_length key, ?rounds⟩⟩
  case shifts =>
    intro n h1 h16
    rw [shiftSchedule_get (by omega), Nat.sub_add_cancel h1]
  case rounds =>
    intro n h1 h16
    have hshift := shiftSchedule_get (i := n - 1) (by omega)
    match n with
    | 1 => exact ⟨_, (ks key).c0, (ks key).d0, _, rfl, fun _ => ⟨rfl, rfl⟩, by omega, hshift, rfl, rfl, rfl, rfl⟩
    | m + 2 =>
      have hprev := ks_rounds_get key (i := m) (by omega)
      exact ⟨_, _, _, _, keyRounds_get_succ hprev hshift, by omega, fun _ => ⟨_, hprev, rfl, rfl⟩, hshift,
        rfl, rfl, rfl, rfl⟩

end Sys2Proof.Machine
end

section
/-! SUPPORT and PROOFS. KSCHED (spec/41_key_schedule.md rule R141): the parity positions (R138), keys with constant
halves (R140), and where the schedule's records stand in a trace. -/

namespace Sys2Proof.Machine

open Sys2Proof.Claims

/-- The schedule depends on the key through PC-1 alone (R131). -/
theorem ks_congr {k k' : Word} (h : permute pc1Table k = permute pc1Table k') : ks k = ks k' := by
  simp only [ks, h]

/-- PC-1 reads no parity position (R106, R138). -/
theorem not_mem_parityPositions_of_mem_pc1 : ∀ t ∈ pc1Table.entries, t ∉ parityPositions := by decide

/-- Keys that differ only in parity positions give the same schedule (R138). -/
theorem ks_eq_of_pos_eq_off_parity {k k' : Word}
    (h : ∀ p, 1 ≤ p → p ≤ 64 → p ∉ parityPositions → pos k p = pos k' p) : ks k = ks k' := by
  refine ks_congr (permute_congr pc1Table fun t ht => ?_)
  obtain ⟨h1, h64⟩ := pc1Table.mem_range ht
  exact h t h1 h64 (not_mem_parityPositions_of_mem_pc1 t ht)

/-- A half of equal bits is its own rotation (R140). -/
theorem rotateLeft_of_constant {v : KeyHalf} (h : v = 0 ∨ v = BitVec.allOnes 28) (m : Nat) : v.rotateLeft m = v := by
  apply eq_of_pos_eq
  intro k h1 hk
  rw [pos_rotateLeft v m h1 hk]
  rcases h with rfl | rfl
  · simp [pos]
  · simp only [pos, BitVec.getLsbD_allOnes, decide_eq_decide]
    omega

/-- Constant halves stay as they are, so every round key is PC-2 of them (R140). -/
theorem roundKeys_of_constantHalves {key : Word} (h : ConstantHalves key) (n : Fin 16) :
    (roundKeys key)[n] = permute pc2Table ((ks key).c0 ++ (ks key).d0) := by
  obtain ⟨hc, hd⟩ := h
  obtain ⟨r, hr, hk⟩ := roundKeys_get key n
  rw [ks_rounds_get key n.isLt, rotateLeft_of_constant hc, rotateLeft_of_constant hd] at hr
  obtain rfl := Option.some.inj hr
  exact hk

/-- A round-key file made of the round keys of a key holds them (R29). -/
theorem holdsRoundKeys_of_rk {s : State} {key : Word} (h : s.rk = (roundKeys key).map Reg.holding) :
    HoldsRoundKeys s key := by
  intro n
  obtain ⟨r, hr, hk⟩ := roundKeys_get key n
  exact ⟨r, hr, by simpa [h, Reg.holding] using hk⟩

/-- The three records of round i+1 in the schedule's records, after T.PC1OUT, T.C0 and T.D0 (R141). -/
theorem keyScheduleRecords_get {key : Word} {i j : Nat} {r : KeyRound} (hr : (ks key).rounds[i]? = some r)
    (hj : j < 3) : (keyScheduleRecords (ks key))[3 + (3 * i + j)]? = (keyRoundRecords r)[j]? := by
  rw [keyScheduleRecords, List.getElem?_append_right (by simp)]
  simp [flatMap_getElem? keyRoundRecords_length _ i j hj, hr]

/-- The schedule's records put the rounds' records after whatever comes before them (R141, R186). -/
theorem keyRecordsAt_append (pre post : List TraceRecord) (key : Word) :
    KeyRecordsAt (pre ++ keyScheduleRecords (ks key) ++ post) (pre.length + 3) key := by
  intro n h1 h16
  obtain ⟨r, hr, rfl⟩ : ∃ r, (ks key).rounds[n - 1]? = some r ∧ r.n = n :=
    ⟨_, ks_rounds_get key (by omega), Nat.sub_add_cancel h1⟩
  have hrec {j : Nat} (hj : j < 3) :
      (pre ++ keyScheduleRecords (ks key) ++ post)[pre.length + 3 + 3 * (r.n - 1) + j]? = (keyRoundRecords r)[j]? := by
    rw [← keyScheduleRecords_get hr hj, List.append_assoc, List.getElem?_append_right (by omega),
      List.getElem?_append_left (by simp; omega)]
    congr 1; omega
  exact ⟨r, hr, hrec (j := 0) (by omega), hrec (j := 1) (by omega), hrec (j := 2) (by omega)⟩

/-- With KEY written KSCHED writes the round keys and the records of KEY's schedule, and nothing else (R141). -/
theorem exec_ksched_of_key_written {s : State} (h : s.key.written = true) :
    exec .ksched s =
      .next { s with rk := (roundKeys s.key.value).map Reg.holding, trace := kschedRecords s.key.value } := by
  rw [exec_eq_withOperands (by decide), operandsWritten, h, withOperands_true]
  rfl

/-- KSCHED's records are T.KEY and those of the schedule (R141). -/
theorem kschedRecords_keyRecordsAt (key : Word) : KeyRecordsAt (kschedRecords key) 4 key := by
  simpa [kschedRecords] using keyRecordsAt_append [traceRecord .key 0 0 key] [] key

/-- The four keys of R141's corner cases have constant halves, and PC-2 of those is the round key R141 gives. -/
theorem constantHalves_corner_cases :
    (ConstantHalves 0 ∧ permute pc2Table ((ks 0).c0 ++ (ks 0).d0) = 0) ∧
    (ConstantHalves (BitVec.allOnes 64) ∧
      permute pc2Table ((ks (BitVec.allOnes 64)).c0 ++ (ks (BitVec.allOnes 64)).d0) = 0xFFFFFFFFFFFF) ∧
    (ConstantHalves 0x0101010101010101 ∧
      permute pc2Table ((ks 0x0101010101010101).c0 ++ (ks 0x0101010101010101).d0) = 0) ∧
    (ConstantHalves 0x1F1F1F1F0E0E0E0E ∧
      permute pc2Table ((ks 0x1F1F1F1F0E0E0E0E).c0 ++ (ks 0x1F1F1F1F0E0E0E0E).d0) = 0x000000FFFFFF) := by
  unfold ConstantHalves
  decide +kernel

/-- Settles O20: the fault is the shared shape's; KSCHED's result is written out by `exec_ksched_of_key_written`;
the corner cases are keys with constant halves, and the single values are computed. -/
theorem kschedWritesRoundKeysAndTrace : Obligations.KschedWritesRoundKeysAndTrace := by
  unfold Obligations.KschedWritesRoundKeysAndTrace
  refine ⟨fun s => ⟨fun hkey hf => exec_of_operands_unwritten hf hkey, fun hkey => ?written⟩,
    fun _ _ => ks_eq_of_pos_eq_off_parity, fun n => ?corner, ?values⟩
  case written =>
    exact ⟨_, exec_ksched_of_key_written hkey, rfl, holdsRoundKeys_of_rk rfl, kschedRecords_length _, rfl, rfl, rfl,
      rfl, kschedRecords_keyRecordsAt _⟩
  case corner =>
    obtain ⟨⟨hzero, kzero⟩, ⟨hones, kones⟩, ⟨hparity, kparity⟩, ⟨hhalves, khalves⟩⟩ := constantHalves_corner_cases
    exact ⟨(roundKeys_of_constantHalves hzero n).trans kzero, (roundKeys_of_constantHalves hones n).trans kones,
      (roundKeys_of_constantHalves hparity n).trans kparity, (roundKeys_of_constantHalves hhalves n).trans khalves⟩
  case values => decide +kernel

end Sys2Proof.Machine
end

section
/-! SUPPORT and PROOFS. The Feistel round function and ROUNDF (spec/42_round_function.md rules R151 to R157 and R168):
the S-box outputs in SOUT, and where the twelve records of f stand in a trace. -/

namespace Sys2Proof.Machine

open Sys2Proof.Claims

/-- Entry k of the bits of a string is its position k+1 (R11). -/
theorem bitsOf_getElem? {w : Nat} (v : BitVec w) {k : Nat} (hk : k < w) : (bitsOf v)[k]? = some (pos v (k + 1)) := by
  simp [bitsOf, hk]

/-- The eight outputs fill the 32 positions of SOUT (R155). -/
theorem length_sboxOutputBits (x : BitVec 48) :
    ((List.finRange 8).flatMap fun i => bitsOf (sboxOutput x i)).length = 32 := by
  rw [length_flatMap_const (m := 4) fun i => length_bitsOf (sboxOutput x i), List.length_finRange]

/-- Position j of the output of box i+1 is position 4i+j of SOUT (R155). -/
theorem pos_substitute (x : BitVec 48) (i : Fin 8) {j : Nat} (h1 : 1 ≤ j) (h4 : j ≤ 4) :
    pos (substitute x) (4 * i.val + j) = pos (sboxOutput x i) j := by
  have hbox : (List.finRange 8)[i.val]? = some i := by simp
  have hbit : ((List.finRange 8).flatMap fun i => bitsOf (sboxOutput x i))[4 * i.val + (j - 1)]? =
      some (pos (sboxOutput x i) j) := by
    rw [flatMap_getElem? (fun i => length_bitsOf (sboxOutput x i)) _ _ _ (by omega), hbox, Option.bind_some,
      bitsOf_getElem? _ (by omega), Nat.sub_add_cancel h1]
  rw [substitute, pos_ofBits (length_sboxOutputBits x) (by omega) (by omega), ← Option.some.injEq,
    ← List.getElem?_eq_getElem, Nat.add_sub_assoc h1, hbit]

/-- The four positions of SOUT from 4i+1 on are the output of box i+1 (R155). -/
theorem span_substitute (x : BitVec 48) (i : Fin 8) : span (substitute x) (4 * i.val + 1) 4 = sboxOutput x i := by
  apply eq_of_pos_eq
  intro j h1 h4
  rw [pos_span _ h1 h4 (by omega), Nat.add_right_comm, Nat.add_sub_cancel, pos_substitute x i h1 h4]

/-- The row in the integer view of the block (R154). -/
theorem rowOf_eq_integerView (B : BitVec 6) : (rowOf B).val = ((B.toNat >>> 4) &&& 2) ||| (B.toNat &&& 1) := by
  revert B
  decide

/-- The column in the integer view of the block (R154). -/
theorem colOf_eq_integerView (B : BitVec 6) : (colOf B).val = (B.toNat >>> 1) &&& 0xF := by
  revert B
  decide

/-- Settles O21: the row and the column are `rowOf` and `colOf` of the block, and SOUT holds the box's output. -/
theorem substitutionLooksUpEachBox : Obligations.SubstitutionLooksUpEachBox := by
  unfold Obligations.SubstitutionLooksUpEachBox
  intro x b
  exact ⟨rowOf (sboxInput x b), colOf (sboxInput x b), rfl, rfl, rowOf_eq_integerView _, colOf_eq_integerView _,
    span_substitute x b⟩

/-- The record of box i+1 comes after T.EXP, T.XOR and the records of the boxes before it (R168). -/
theorem feistelRecords_get_sin (n : Nat) (fv : FValues) {i : Nat} (hi : i < 8) :
    (feistelRecords n fv)[2 + i]? = some (traceRecord .sin n (i + 1) (span fv.x (6 * i + 1) 6)) := by
  rw [feistelRecords, List.append_assoc, List.getElem?_append_right (by simp), List.getElem?_append_left (by simpa)]
  simp [sboxInput, hi]

/-- A trace that holds the records of f from some index on holds them as R168 lists them. -/
theorem fRecordsAt_of_getElem? {tr : List TraceRecord} {at0 n : Nat} {fv : FValues}
    (h : ∀ i, i < 12 → tr[at0 + i]? = (feistelRecords n fv)[i]?) : FRecordsAt tr at0 n fv := by
  refine ⟨h 0 (by omega), h 1 (by omega), ?sin, h 10 (by omega), h 11 (by omega)⟩
  intro b h1 h8
  obtain ⟨i, rfl⟩ := Nat.exists_eq_add_of_le' h1
  rw [show at0 + 1 + (i + 1) = at0 + (2 + i) by omega, h _ (by omega), feistelRecords_get_sin n fv (by omega),
    show 6 * (i + 1) - 5 = 6 * i + 1 by omega]

/-- With DIN or RKIN unwritten the operands of ROUNDF are not written (R216). -/
theorem operandsWritten_roundf_eq_false {s : State} (h : s.din.written = false ∨ s.rkin.written = false) :
    operandsWritten .roundf s = false := by
  rcases h with h | h <;> simp [operandsWritten, h]

/-- With DIN and RKIN written ROUNDF writes f of them to DOUT and its records, and nothing else (R168). -/
theorem exec_roundf_of_operands_written {s : State} (hdin : s.din.written = true) (hrkin : s.rkin.written = true) :
    exec .roundf s = .next { s with
      dout := ⟨(feistel (s.din.value.setWidth 32) s.rkin.value).pout.setWidth 64, true⟩,
      trace := feistelRecords 0 (feistel (s.din.value.setWidth 32) s.rkin.value) } := by
  rw [exec_eq_withOperands (by decide), operandsWritten, hdin, hrkin, Bool.and_self, withOperands_true]
  rfl

/-- Settles O25: the fault is the shared shape's; ROUNDF's result is written out by
`exec_roundf_of_operands_written`; the corner cases and the example are computed. -/
theorem roundfWritesFeistelValueAndTrace : Obligations.RoundfWritesFeistelValueAndTrace := by
  unfold Obligations.RoundfWritesFeistelValueAndTrace
  refine ⟨fun s => ⟨fun hop hf => exec_of_operands_unwritten hf (operandsWritten_roundf_eq_false hop),
    fun hdin hrkin => ?written⟩, ?values⟩
  case written =>
    exact ⟨_, exec_roundf_of_operands_written hdin hrkin, rfl, rfl, feistelRecords_length _ _,
      fRecordsAt_of_getElem? fun i _ => by rw [Nat.zero_add]⟩
  case values =>
    unfold FGives
    decide +kernel

/-- Settles O23: each value of f is made from the one before it, as `feistel` is written. -/
theorem roundFunctionInFull : Obligations.RoundFunctionInFull := by
  unfold Obligations.RoundFunctionInFull
  exact fun _ _ => ⟨rfl, rfl, rfl, rfl, fun _ => rfl⟩

end Sys2Proof.Machine
end

section
/-! SUPPORT and PROOFS. The encryption pipeline (spec/43_pipeline.md): NOP (R189), the half-blocks of an encryption
round by round (R181 to R187), and where the records of ENCRYPT stand in its trace (R186). -/

namespace Sys2Proof.Machine

open Sys2Proof.Claims

/-- NOP's word changes nothing, whether the engine is faulted or not (R189, R218). -/
theorem issueCommand_nop (s : State) : issueCommand 0x00 s = .next s := by
  cases hf : s.status.fault with
  | true => exact issueCommand_of_faulted hf
  | false => exact issueCommand_encode .nop hf

/-- The only command word whose low byte is 0 is NOP's (R82). -/
theorem not_mem_legalCodes_of_low_byte_zero {v : Nat} (hlow : v % 256 = 0) (hv : v ≠ 0) : v ∉ legalCodes := by
  simp only [legalCodes, List.mem_cons, List.not_mem_nil, or_false]
  omega

/-- Settles O11: the step issues the word; NOP's does nothing, and another word with its low byte is reserved. -/
theorem nopHasNoEffect : Obligations.NopHasNoEffect := by
  unfold Obligations.NopHasNoEffect
  refine ⟨fun _ => rfl, ?nop, ?reserved⟩
  case nop => exact fun s rest hn => (step_write_cmd hn).trans (issueCommand_nop _)
  case reserved =>
    intro s v rest hn hf hlow hv
    exact reservedCommandRaisesIllegalCmd s v rest hn hf (not_mem_legalCodes_of_low_byte_zero hlow hv)

/-- The halves (Ln, Rn) of the encryption of pt under ky, from the two halves of IP(PT) on (R181, R183). -/
def encryptionHalves (pt ky : Word) (n : Nat) : Half × Half :=
  halvesAfter (span (permute ipTable pt) 1 32) (span (permute ipTable pt) 33 32) (ks ky).rounds n

/-- Each round makes the new halves from the old (R183). -/
theorem encryptionHalves_succ (pt : Word) {ky : Word} {n : Nat} {k : KeyRound} (hk : (ks ky).rounds[n]? = some k) :
    encryptionHalves pt ky (n + 1) = ((encryptionHalves pt ky n).2,
      (encryptionHalves pt ky n).1 ^^^ (feistel (encryptionHalves pt ky n).2 k.k).pout) := by
  rw [encryptionHalves, halvesAfter, hk]
  rfl

/-- `encryptionHalves` are the half-blocks R181 and R183 define. -/
theorem halves_encryptionHalves (pt ky : Word) :
    Halves pt ky (fun n => (encryptionHalves pt ky n).1) (fun n => (encryptionHalves pt ky n).2) := by
  refine ⟨rfl, rfl, fun n hn => ⟨_, ks_rounds_get ky hn, ?_⟩⟩
  simp only [encryptionHalves_succ pt (ks_rounds_get ky hn), and_self]

/-- Round i+1 of an encryption starts from the halves after i rounds (R183). -/
theorem desEncrypt_rounds_get (pt : Word) {ky : Word} {i : Nat} {k : KeyRound} (hk : (ks ky).rounds[i]? = some k) :
    (desEncrypt pt ky).rounds[i]? =
      some (feistelRound (encryptionHalves pt ky i).1 (encryptionHalves pt ky i).2 k) := by
  refine (feistelRounds_get (ks ky).rounds _ _ i).trans ?_
  rw [hk]
  rfl

/-- The preoutput is R16 ‖ L16 (R184). -/
theorem desEncrypt_pre (pt ky : Word) :
    (desEncrypt pt ky).pre = (encryptionHalves pt ky 16).2 ++ (encryptionHalves pt ky 16).1 := by
  simp only [desEncrypt, lastHalves_eq, ks_rounds_length, encryptionHalves]

/-- The ciphertext is FP of the preoutput (R185). -/
theorem desEncrypt_ct (pt ky : Word) : (desEncrypt pt ky).ct = permute fpTable (desEncrypt pt ky).pre := rfl

/-- Settles O26: the halves are `encryptionHalves`, of which the preoutput is made. -/
theorem encryptionFollowsFeistelRounds : Obligations.EncryptionFollowsFeistelRounds := by
  unfold Obligations.EncryptionFollowsFeistelRounds
  intro pt ky
  exact ⟨_, _, halves_encryptionHalves pt ky, desEncrypt_pre pt ky, by rw [desEncrypt_ct, desEncrypt_pre]⟩

/-- One round of an encryption per round of the schedule. -/
@[simp] theorem desEncrypt_rounds_length (pt ky : Word) : (desEncrypt pt ky).rounds.length = 16 :=
  (feistelRounds_length _ _ _).trans (ks_rounds_length ky)

/-- The five records of ENCRYPT before those of the key schedule: T.PT, T.KEY, T.IPOUT, T.L0, T.R0 (R186). -/
def openingRecords (pt ky : Word) : List TraceRecord :=
  [traceRecord .pt 0 0 pt, traceRecord .key 0 0 ky, traceRecord .ipout 0 0 (desEncrypt pt ky).ipout,
    traceRecord .l0 0 0 (desEncrypt pt ky).l0, traceRecord .r0 0 0 (desEncrypt pt ky).r0]

/-- The two records of ENCRYPT after those of the rounds: T.PRE, T.CT (R186). -/
def closingRecords (pt ky : Word) : List TraceRecord :=
  [traceRecord .pre 0 0 (desEncrypt pt ky).pre, traceRecord .ct 0 0 (desEncrypt pt ky).ct]

/-- The four parts of ENCRYPT's trace, in order (R186). -/
theorem encryptRecords_eq (pt ky : Word) : encryptRecords pt ky =
    openingRecords pt ky ++ keyScheduleRecords (ks ky) ++ (desEncrypt pt ky).rounds.flatMap roundRecords ++
      closingRecords pt ky := rfl

/-- The records of the key schedule's rounds start at index 8 (R186). -/
theorem encryptRecords_keyRecordsAt (pt ky : Word) : KeyRecordsAt (encryptRecords pt ky) 8 ky := by
  rw [encryptRecords_eq, List.append_assoc]
  exact keyRecordsAt_append (openingRecords pt ky) _ ky

/-- The fourteen records of round i+1 start at index 56 + 14·i (R186). -/
theorem encryptRecords_get_round {pt ky : Word} {i j : Nat} {x : Round}
    (hx : (desEncrypt pt ky).rounds[i]? = some x) (hj : j < 14) :
    (encryptRecords pt ky)[56 + 14 * i + j]? = (roundRecords x)[j]? := by
  have hi : i < 16 := desEncrypt_rounds_length pt ky ▸ (List.getElem?_eq_some_iff.mp hx).1
  have hopen : (openingRecords pt ky ++ keyScheduleRecords (ks ky)).length = 56 := by simp [openingRecords]
  have hrounds : ((desEncrypt pt ky).rounds.flatMap roundRecords).length = 224 := by
    simp [length_flatMap_const roundRecords_length]
  rw [encryptRecords_eq, List.getElem?_append_left (by rw [List.length_append]; omega),
    List.getElem?_append_right (by omega), hopen, Nat.add_assoc, Nat.add_sub_cancel_left,
    flatMap_getElem? roundRecords_length _ i j hj, hx, Option.bind_some]

/-- The two closing records stand at the indices 280 and 281 (R186). -/
theorem encryptRecords_get_closing (pt ky : Word) (j : Nat) :
    (encryptRecords pt ky)[280 + j]? = (closingRecords pt ky)[j]? := by
  have hlen : (openingRecords pt ky ++ keyScheduleRecords (ks ky) ++
      (desEncrypt pt ky).rounds.flatMap roundRecords).length = 280 := by
    simp [openingRecords, length_flatMap_const roundRecords_length]
  rw [encryptRecords_eq, List.getElem?_append_right (by omega), hlen, Nat.add_sub_cancel_left]

/-- A trace that holds the records of a round from some index on holds those of its f, then T.RNEW and T.LNEW
(R186). -/
theorem roundRecordsAt_of_getElem? {tr : List TraceRecord} {at0 : Nat} {x : Round}
    (h : ∀ j, j < 14 → tr[at0 + j]? = (roundRecords x)[j]?) :
    FRecordsAt tr at0 x.n x.fv ∧ tr[at0 + 12]? = some (traceRecord .rnew x.n 0 x.rnew) ∧
      tr[at0 + 13]? = some (traceRecord .lnew x.n 0 x.lnew) := by
  refine ⟨fRecordsAt_of_getElem? fun i hi => ?_, h 12 (by omega), h 13 (by omega)⟩
  rw [h i (by omega), roundRecords, List.getElem?_append_left (by simpa)]

/-- The records of round n in ENCRYPT's trace (R186). -/
theorem encryptRecords_roundRecordsAt (pt ky : Word) {n : Nat} (h1 : 1 ≤ n) (h16 : n ≤ 16) :
    ∃ k, (ks ky).rounds[n - 1]? = some k ∧
      FRecordsAt (encryptRecords pt ky) (56 + 14 * (n - 1)) n (feistel (encryptionHalves pt ky (n - 1)).2 k.k) ∧
      (encryptRecords pt ky)[68 + 14 * (n - 1)]? = some (traceRecord .rnew n 0 (encryptionHalves pt ky n).2) ∧
      (encryptRecords pt ky)[69 + 14 * (n - 1)]? = some (traceRecord .lnew n 0 (encryptionHalves pt ky n).1) := by
  obtain ⟨i, rfl⟩ := Nat.exists_eq_add_of_le' h1
  have hk := ks_rounds_get ky (i := i) (by omega)
  obtain ⟨hf, hrnew, hlnew⟩ := roundRecordsAt_of_getElem? fun _ hj =>
    encryptRecords_get_round (desEncrypt_rounds_get pt hk) hj
  rw [Nat.add_right_comm] at hrnew hlnew
  rw [encryptionHalves_succ pt hk]
  exact ⟨_, hk, hf, hrnew, hlnew⟩

/-- With DIN and KEY written ENCRYPT writes the ciphertext, the round keys and its records, and nothing else (R188). -/
theorem exec_encrypt_of_operands_written {s : State} (hdin : s.din.written = true) (hkey : s.key.written = true) :
    exec .encrypt s = .next { s with
      dout := ⟨(desEncrypt s.din.value s.key.value).ct, true⟩,
      rk := (roundKeys s.key.value).map Reg.holding,
      trace := encryptRecords s.din.value s.key.value } := by
  have hpt : dinOperand 64 s.traceClear = s.din.value := BitVec.setWidth_eq _
  have hct (v : Word) : placed v = v := BitVec.setWidth_eq v
  rw [exec_eq_withOperands (by decide), operandsWritten, hdin, hkey, Bool.and_self, withOperands_true, work, hpt,
    State.setDout, hct]
  rfl

/-- Settles O28: ENCRYPT's trace is `encryptRecords`, whose parts stand where the lemmas above place them. -/
theorem encryptTraceLayout : Obligations.EncryptTraceLayout := by
  unfold Obligations.EncryptTraceLayout
  intro s hdin hkey
  refine ⟨_, _, _, exec_encrypt_of_operands_written hdin hkey, halves_encryptionHalves _ _, encryptRecords_length _ _,
    rfl, rfl, rfl, rfl, rfl, rfl, rfl, rfl, encryptRecords_keyRecordsAt _ _,
    fun _ => encryptRecords_roundRecordsAt _ _, ?pre, ?ct⟩
  case pre =>
    rw [← desEncrypt_pre]
    exact encryptRecords_get_closing _ _ 0
  case ct =>
    rw [← desEncrypt_pre, ← desEncrypt_ct]
    exact encryptRecords_get_closing _ _ 1

end Sys2Proof.Machine
end

section
/-! PROOFS. The fault of an unwritten operand, at exec (spec/60_exceptions.md rules R216 and R219). -/

namespace Sys2Proof.Machine

/-- Settles O7: the operand check comes before the work of a command, which leaves STATUS as it is. -/
theorem unwrittenOperandRaisesBeforeAnyWrite : Obligations.UnwrittenOperandRaisesBeforeAnyWrite := by
  unfold Obligations.UnwrittenOperandRaisesBeforeAnyWrite
  intro i s
  refine ⟨?unwritten, ?written⟩
  case unwritten => exact exec_of_operands_unwritten
  case written => exact exec_of_operands_written

end Sys2Proof.Machine
end

section
/-! PROOFS. The decoder against the encoder and the field checks (spec/30_encoding.md rules R80 to R86). -/

namespace Sys2Proof

/-- Settles O2: only a command's own word decodes to it, and that word does. -/
theorem decodeEncodeAgree : Obligations.DecodeEncodeAgree := by
  unfold Obligations.DecodeEncodeAgree
  exact fun v i => ⟨eq_encode_of_decode, fun h => h ▸ decode_encode i⟩

/-- Settles O1: the words of the opcode map are those of the encoder. -/
theorem opcodeMapWordsDecode : Obligations.OpcodeMapWordsDecode := by
  unfold Obligations.OpcodeMapWordsDecode
  exact ⟨decode_encode .nop, decode_encode .permIp, decode_encode .permFp, decode_encode .permE, decode_encode .permP,
    decode_encode .permPc1, decode_encode .permPc2, decode_encode .ksched, decode_encode .roundf,
    decode_encode .encrypt⟩

/-- The fields of a command's word are well formed. -/
theorem wellFormed_encode (i : Instr) : (fieldsOf (encode i)).wellFormed = true := by
  cases i <;> decide

/-- The three field checks (R80, R82, R86). -/
theorem wellFormed_iff (f : CmdFields) : f.wellFormed = true ↔
    f.zero = 0 ∧ f.major.toNat ≤ 4 ∧ (if f.major = 1 then f.minor.toNat ≤ 5 else f.minor = 0) := by
  unfold CmdFields.wellFormed CmdFields.zeroOk CmdFields.majorOk CmdFields.minorOk
  split <;> simp [and_assoc]

/-- The table selectors 0 to 5 are commands (R86). -/
theorem decodeSelector_ok {minor : Nat} (h : minor ≤ 5) : ∃ i, decodeSelector minor = .ok i := by
  interval_cases minor <;> exact ⟨_, rfl⟩

/-- A class without selectors is a command where MINOR is 0 (R80, R82). -/
theorem decodeClass_zero_ok {major : Nat} (h : major ≤ 4) (h1 : major ≠ 1) : ∃ i, decodeClass major 0 = .ok i := by
  have hmajor : major = 0 ∨ major = 2 ∨ major = 3 ∨ major = 4 := by omega
  rcases hmajor with rfl | rfl | rfl | rfl <;> exact ⟨_, rfl⟩

/-- A word with well-formed fields decodes. -/
theorem decode_ok_of_wellFormed {v : Word} (h : (fieldsOf v).wellFormed = true) : ∃ i, decode v = .ok i := by
  obtain ⟨hzero, hmajor, hminor⟩ := (wellFormed_iff _).mp h
  simp only [decode, if_pos hzero]
  split at hminor
  case isTrue h1 =>
    rw [h1]
    exact decodeSelector_ok hminor
  case isFalse h1 =>
    rw [hminor]
    exact decodeClass_zero_ok hmajor fun h => h1 (BitVec.eq_of_toNat_eq h)

/-- Settles O3: a word that decodes is a command's word, and a word with well-formed fields decodes. -/
theorem decodedExactlyWhenWellFormed : Obligations.DecodedExactlyWhenWellFormed := by
  unfold Obligations.DecodedExactlyWhenWellFormed
  intro v
  refine ⟨?decoded, decode_ok_of_wellFormed⟩
  case decoded =>
    rintro ⟨i, h⟩
    exact eq_encode_of_decode h ▸ wellFormed_encode i

end Sys2Proof
end

section
/-! SUPPORT and PROOFS. What a command changes and what it reads (spec/30_encoding.md rule R85, spec/43_pipeline.md
rule R191). -/

namespace Sys2Proof.Machine

@[simp] theorem work_din (i : Instr) (s : State) : (work i s).din = s.din := by cases i <;> rfl
@[simp] theorem work_key (i : Instr) (s : State) : (work i s).key = s.key := by cases i <;> rfl
@[simp] theorem work_rkin (i : Instr) (s : State) : (work i s).rkin = s.rkin := by cases i <;> rfl
@[simp] theorem work_pending (i : Instr) (s : State) : (work i s).pending = s.pending := by cases i <;> rfl
@[simp] theorem work_reads (i : Instr) (s : State) : (work i s).reads = s.reads := by cases i <;> rfl
@[simp] theorem work_refused (i : Instr) (s : State) : (work i s).refused = s.refused := by cases i <;> rfl
@[simp] theorem work_drawCount (i : Instr) (s : State) : (work i s).drawCount = s.drawCount := by cases i <;> rfl
@[simp] theorem work_drawSource (i : Instr) (s : State) : (work i s).drawSource = s.drawSource := by cases i <;> rfl

/-- KSCHED leaves DOUT (R85). -/
theorem work_dout_of_ksched {i : Instr} (h : i = .ksched) (s : State) : (work i s).dout = s.dout := by
  subst h; rfl

/-- Only KSCHED and ENCRYPT write the round-key file (R29, R85). -/
theorem work_rk_of_ne {i : Instr} (hk : i ≠ .ksched) (he : i ≠ .encrypt) (s : State) : (work i s).rk = s.rk := by
  cases i with
  | ksched => exact absurd rfl hk
  | encrypt => exact absurd rfl he
  | _ => rfl

/-- The operand registers and the host's part are the same in both states. -/
structure KeepsInputs (s t : State) : Prop where
  din        : t.din = s.din
  key        : t.key = s.key
  rkin       : t.rkin = s.rkin
  pending    : t.pending = s.pending
  reads      : t.reads = s.reads
  refused    : t.refused = s.refused
  drawCount  : t.drawCount = s.drawCount
  drawSource : t.drawSource = s.drawSource

/-- A command keeps its operand registers and the host's part (R85). -/
theorem exec_keepsInputs {i : Instr} {s t : State} (h : exec i s = .next t) : KeepsInputs s t := by
  rcases exec_cases i s with ⟨-, he⟩ | ⟨-, -, he⟩ | ⟨-, -, he⟩ <;> cases he.symm.trans h
  all_goals constructor <;> simp

/-- The fault action changes STATUS alone (R215). -/
theorem raiseFault_eq (c : Cause) (s : State) :
    raiseFault c s = { s with status := (raiseFault c s).status } := by
  rcases raiseFault_cases c s with ⟨-, h⟩ | ⟨-, h⟩ <;> rw [h]

/-- Settles O8: the cases of exec, with what `work` leaves as it is. -/
theorem commandsWriteOnlyTheirResults : Obligations.CommandsWriteOnlyTheirResults := by
  unfold Obligations.CommandsWriteOnlyTheirResults
  intro i s
  obtain ⟨t, ht⟩ := exec_next i s
  obtain ⟨hdin, hkey, hrkin, hpending, hreads, hrefused, hcount, hsource⟩ := exec_keepsInputs ht
  refine ⟨t, ht, hdin, hkey, hrkin, hpending, hreads, hrefused, hcount, hsource, ?_⟩
  rcases exec_cases i s with ⟨hnop, he⟩ | ⟨hne, hw, he⟩ | ⟨hne, hw, he⟩ <;> cases he.symm.trans ht
  case inl => exact ⟨fun _ => rfl, fun _ => rfl, fun _ _ => rfl, fun _ => rfl, fun _ => rfl⟩
  case inr.inl =>
    refine ⟨fun h => absurd h hne, fun h => ?_, fun hk he => ?_, fun _ => by simp, fun h => by simp [hw] at h⟩
    · exact work_dout_of_ksched h s.traceClear
    · exact work_rk_of_ne hk he s.traceClear
  case inr.inr =>
    exact ⟨fun h => absurd h hne, fun _ => by simp, fun _ _ => by simp, fun h => by simp [hw] at h,
      fun _ => raiseFault_eq _ s⟩

/-- Whether the operands of a command are written depends on what the command reads (R216). -/
theorem operandsWritten_congr {i : Instr} {s t : State} (h : SameReads i s t) :
    operandsWritten i s = operandsWritten i t := by
  cases i with
  | nop => rfl
  | permE | permP | permPc2 => exact h.1
  | permIp | permFp | permPc1 | ksched => exact congrArg Reg.written h
  | roundf =>
    obtain ⟨hdin, -, hrkin⟩ := h
    rw [operandsWritten, operandsWritten, hdin, hrkin]
  | encrypt =>
    obtain ⟨hdin, hkey⟩ := h
    rw [operandsWritten, operandsWritten, hdin, hkey]

/-- A result of a command in two states: the same in both, or left alone in both. -/
def SameOrKept {α : Type} (f : State → α) (s t s' t' : State) : Prop := f s' = f t' ∨ f s' = f s ∧ f t' = f t

/-- The results of a command's work on a cleared trace depend on what the command reads alone (R85, R191). -/
theorem work_results {i : Instr} {s t : State} (h : SameReads i s t) :
    SameOrKept State.dout s t (work i s.traceClear) (work i t.traceClear) ∧
      SameOrKept State.rk s t (work i s.traceClear) (work i t.traceClear) ∧
      (work i s.traceClear).trace = (work i t.traceClear).trace := by
  cases i with
  | nop => exact ⟨.inr ⟨rfl, rfl⟩, .inr ⟨rfl, rfl⟩, rfl⟩
  | permIp | permFp | permPc1 =>
    replace h : s.din = t.din := h
    simp [SameOrKept, work, dinOperand, h]
  | permE | permP | permPc2 =>
    obtain ⟨-, hdin⟩ := h
    simp [SameOrKept, work, dinOperand, lowBits, hdin]
  | ksched =>
    replace h : s.key = t.key := h
    simp [SameOrKept, work, keyOperand, h]
  | roundf =>
    obtain ⟨-, hdin, hrkin⟩ := h
    simp [SameOrKept, work, dinOperand, rkinOperand, lowBits, hdin, hrkin]
  | encrypt =>
    obtain ⟨hdin, hkey⟩ := h
    simp [SameOrKept, work, dinOperand, keyOperand, hdin, hkey]

/-- What STATUS becomes in the fault action depends on STATUS alone (R215). -/
theorem raiseFault_status_congr {c : Cause} {s t : State} (h : s.status = t.status) :
    (raiseFault c s).status = (raiseFault c t).status := by
  rcases raiseFault_cases c s with ⟨hf, hs⟩ | ⟨hf, hs⟩ <;> rw [h] at hf
  · rw [hs, raiseFault_of_faulted hf, h]
  · rw [hs, raiseFault_of_clear hf]

/-- Settles O9: both states take the same case of exec, and the work of a command depends on what it reads. -/
theorem resultsDependOnOperandsOnly : Obligations.ResultsDependOnOperandsOnly := by
  unfold Obligations.ResultsDependOnOperandsOnly
  intro i s t h hstatus
  have hwritten := operandsWritten_congr h
  rcases exec_cases i s with ⟨rfl, he⟩ | ⟨hne, hw, he⟩ | ⟨hne, hw, he⟩
  · exact ⟨s, t, he, rfl, hstatus, .inr ⟨rfl, rfl⟩, .inr ⟨rfl, rfl⟩, .inr ⟨rfl, rfl⟩⟩
  · obtain ⟨hdout, hrk, htrace⟩ := work_results h
    refine ⟨_, _, he, ?_, by simpa using hstatus, hdout, hrk, .inl htrace⟩
    rw [exec_eq_withOperands hne, ← hwritten, hw, withOperands_true]
  · refine ⟨_, _, he, ?_, raiseFault_status_congr hstatus, ?_⟩
    · rw [exec_eq_withOperands hne, ← hwritten, hw, withOperands_false]
    · exact ⟨.inr (by simp), .inr (by simp), .inr (by simp)⟩

/-- Whether a command's operands are written depends on DIN, KEY and RKIN alone (R216). -/
theorem operandsWritten_of_keepsInputs {i : Instr} {s t : State} (h : KeepsInputs s t) :
    operandsWritten i t = operandsWritten i s := by
  cases i <;> simp only [operandsWritten, h.din, h.key, h.rkin]

/-- Doing a command's work over again changes nothing more: it starts from a cleared trace (R31). -/
theorem work_work (i : Instr) (s : State) : work i (work i s.traceClear).traceClear = work i s.traceClear := by
  cases i <;> simp [work, State.traceClear, State.setDout, State.setRoundKeys, State.traceAppendAll, dinOperand,
    keyOperand, rkinOperand]

/-- Raising a fault over again changes nothing more: the first cause stays (R215). -/
theorem raiseFault_raiseFault (c : Cause) (s : State) : raiseFault c (raiseFault c s) = raiseFault c s :=
  raiseFault_of_faulted (raiseFault_status_fault c s)

/-- Settles O10: the operands stay, so the same case of exec comes again, and it changes nothing more. -/
theorem repeatedCommandChangesNothing : Obligations.RepeatedCommandChangesNothing := by
  unfold Obligations.RepeatedCommandChangesNothing
  intro i s
  rcases exec_cases i s with ⟨rfl, he⟩ | ⟨hne, hw, he⟩ | ⟨hne, hw, he⟩ <;>
    refine ⟨_, he, ?_⟩
  · exact he
  · rw [exec_eq_withOperands hne, operandsWritten_of_keepsInputs (exec_keepsInputs he), hw, withOperands_true,
      work_work]
  · rw [exec_eq_withOperands hne, operandsWritten_of_keepsInputs (exec_keepsInputs he), hw, withOperands_false,
      raiseFault_raiseFault]

end Sys2Proof.Machine
end

section
/-! SUPPORT and PROOFS. Steps and runs: what one action leaves of the host's part, how a run ends, and what a fault
keeps until a reset (spec/60_exceptions.md rules R215 to R229, spec/70_reset_and_hazards.md rules R240 and R248). -/

namespace Sys2Proof.Machine

open Sys2Proof.Claims

/-- A run that has ended takes no step; any other performs its next action (R228, R248). -/
theorem step_cases (s : State) :
    (s.RunEnded ∧ step s = .next s) ∨
    (∃ e rest, NextAction s e rest ∧ step s = performEvent e { s with pending := rest }) := by
  rcases Bool.eq_false_or_eq_true s.refused with hr | hr
  · exact .inl ⟨.inr hr, step_of_refused hr⟩
  · cases hp : s.pending with
    | nil => exact .inl ⟨.inl hp, step_of_nothing_pending hp⟩
    | cons e rest => exact .inr ⟨e, rest, ⟨hr, hp⟩, step_of_pending hr hp⟩

/-- A run that has ended is idle. -/
theorem step_of_runEnded {s : State} (h : s.RunEnded) : step s = .next s :=
  h.elim step_of_nothing_pending step_of_refused

/-- The host's part is the same in both states. -/
structure KeepsHost (s t : State) : Prop where
  pending    : t.pending = s.pending
  reads      : t.reads = s.reads
  refused    : t.refused = s.refused
  drawCount  : t.drawCount = s.drawCount
  drawSource : t.drawSource = s.drawSource

theorem KeepsHost.refl (s : State) : KeepsHost s s := ⟨rfl, rfl, rfl, rfl, rfl⟩

/-- A command keeps the host's part. -/
theorem KeepsInputs.keepsHost {s t : State} (h : KeepsInputs s t) : KeepsHost s t :=
  ⟨h.pending, h.reads, h.refused, h.drawCount, h.drawSource⟩

/-- A write to CMD keeps the host's part (R81). -/
theorem issueCommand_keepsHost {v : Word} {s t : State} (h : issueCommand v s = .next t) : KeepsHost s t := by
  rcases issueCommand_cases v s with ⟨-, he⟩ | ⟨-, -, he⟩ | ⟨-, i, -, he⟩
  · cases he.symm.trans h; exact .refl s
  · cases he.symm.trans h; exact ⟨rfl, rfl, rfl, rfl, rfl⟩
  · exact (exec_keepsInputs (he ▸ h)).keepsHost

/-- A host write keeps the host's part (R52). -/
theorem hostWrite_keepsHost {offset : Nat} {v : Word} {s t : State} (h : hostWrite offset v s = .next t) :
    KeepsHost s t := by
  rcases hostWrite_cases offset v s with ⟨-, he⟩ | ⟨-, he⟩ | ⟨r, -, -, he⟩
  · cases he.symm.trans h; exact .refl s
  · exact issueCommand_keepsHost (he ▸ h)
  · cases he.symm.trans h
    obtain ⟨hp, hreads, hr, hc, hsource, -⟩ := writeRegister_host r v s
    exact ⟨hp, hreads, hr, hc, hsource⟩

/-- Every action answers a next state (R229). -/
theorem performEvent_next (e : HostEvent) (s : State) : ∃ t, performEvent e s = .next t := by
  rcases performEvent_cases e s with ⟨offset, v, -, -, he⟩ | ⟨offset, -, -, he⟩ | ⟨-, he⟩ | he
  · exact he ▸ hostWrite_next offset v s
  all_goals exact ⟨_, he⟩

/-- Every step answers a next state (R229). -/
theorem step_next (s : State) : ∃ t, step s = .next t := by
  rcases step_cases s with ⟨-, h⟩ | ⟨e, rest, -, h⟩
  · exact ⟨s, h⟩
  · exact h ▸ performEvent_next e _

/-- An action keeps the actions to come. -/
theorem performEvent_pending {e : HostEvent} {s t : State} (h : performEvent e s = .next t) :
    t.pending = s.pending := by
  rcases performEvent_cases e s with ⟨offset, v, -, -, he⟩ | ⟨offset, -, -, he⟩ | ⟨-, he⟩ | he
  · exact (hostWrite_keepsHost (he ▸ h)).pending
  · cases he.symm.trans h
    rcases hostRead_cases offset s with ⟨v, -, hv⟩ | ⟨-, hv⟩ <;> rw [hv]
  all_goals cases he.symm.trans h; rfl

/-- Settles O5: the step is a write to CMD, which performs the command its value decodes to. -/
theorem stepRunsDecodedCommand : Obligations.StepRunsDecodedCommand := by
  unfold Obligations.StepRunsDecodedCommand
  intro s v rest i hn hf hd
  rw [eq_encode_of_decode hd] at hn
  exact step_write_encode hn hf

/-- Settles O45: every action answers a next state and keeps the actions after it. -/
theorem everyStepCompletes : Obligations.EveryStepCompletes := by
  unfold Obligations.EveryStepCompletes
  refine ⟨exec_next, fun s => ?_⟩
  rcases step_cases s with ⟨hended, h⟩ | ⟨e, rest, ⟨hr, hp⟩, h⟩
  · refine ⟨s, h, ?_⟩
    rcases hended with hp | hr
    · simp [hp]
    · simp [hr]
  · obtain ⟨t, ht⟩ := performEvent_next e { s with pending := rest }
    refine ⟨t, h.trans ht, ?_⟩
    simpa [hr, hp] using performEvent_pending ht

/-! ### Faults -/

/-- Two states with the same STATUS and the same results of the last command. -/
structure SameResults (s t : State) : Prop where
  status : t.status = s.status
  dout   : t.dout = s.dout
  rk     : t.rk = s.rk
  trace  : t.trace = s.trace

theorem SameResults.refl (s : State) : SameResults s s := ⟨rfl, rfl, rfl, rfl⟩

theorem SameResults.trans {s t u : State} (h : SameResults s t) (h' : SameResults t u) : SameResults s u :=
  ⟨h'.status.trans h.status, h'.dout.trans h.dout, h'.rk.trans h.rk, h'.trace.trans h.trace⟩

/-- A write to a register other than CMD keeps STATUS and every result (R52). -/
theorem writeRegister_sameResults (r : RegName) (v : Word) (s : State) : SameResults s (writeRegister r v s) := by
  obtain ⟨-, -, -, -, -, hstatus, hdout, hrk, htrace⟩ := writeRegister_host r v s
  exact ⟨hstatus, hdout, hrk, htrace⟩

/-- A read keeps STATUS and every result (R53). -/
theorem hostRead_sameResults (offset : Nat) (s : State) : SameResults s (hostRead offset s) := by
  rcases hostRead_cases offset s with ⟨v, -, h⟩ | ⟨-, h⟩ <;> rw [h] <;> exact ⟨rfl, rfl, rfl, rfl⟩

/-- A host write keeps STATUS and every result of a faulted engine (R218). -/
theorem hostWrite_sameResults {offset : Nat} {v : Word} {s t : State} (hf : s.status.fault = true)
    (h : hostWrite offset v s = .next t) : SameResults s t := by
  rcases hostWrite_cases offset v s with ⟨-, he⟩ | ⟨-, he⟩ | ⟨r, -, -, he⟩
  · cases he.symm.trans h; exact .refl s
  · rw [issueCommand_of_faulted hf] at he
    cases he.symm.trans h; exact .refl s
  · cases he.symm.trans h; exact writeRegister_sameResults r v s

/-- On a faulted engine an action keeps STATUS and every result, or is a reset (R218, R220). -/
theorem performEvent_of_faulted {e : HostEvent} {s t : State} (hf : s.status.fault = true)
    (h : performEvent e s = .next t) : SameResults s t ∨ e = .reset ∧ t = resetEngine s := by
  rcases performEvent_cases e s with ⟨offset, v, -, -, he⟩ | ⟨offset, -, -, he⟩ | ⟨hreset, he⟩ | he
  · exact .inl (hostWrite_sameResults hf (he ▸ h))
  · cases he.symm.trans h; exact .inl (hostRead_sameResults offset s)
  · cases he.symm.trans h; exact .inr ⟨hreset, rfl⟩
  · cases he.symm.trans h; exact .inl ⟨rfl, rfl, rfl, rfl⟩

/-- A step of a faulted engine keeps STATUS and every result, or is a reset step (R218, R220). -/
theorem step_of_faulted {s : State} (hf : s.status.fault = true) : ∃ t, step s = .next t ∧
    (SameResults s t ∨ ∃ rest, NextAction s .reset rest ∧ t = resetEngine { s with pending := rest }) := by
  rcases step_cases s with ⟨-, h⟩ | ⟨e, rest, hn, h⟩
  · exact ⟨s, h, .inl (.refl s)⟩
  · obtain ⟨t, ht⟩ := performEvent_next e { s with pending := rest }
    refine ⟨t, h.trans ht, ?_⟩
    rcases performEvent_of_faulted (s := { s with pending := rest }) hf ht with
      ⟨hstatus, hdout, hrk, htrace⟩ | ⟨rfl, hreset⟩
    · exact .inl ⟨hstatus, hdout, hrk, htrace⟩
    · exact .inr ⟨rest, hn, hreset⟩

/-- Settles O42: a step keeps STATUS, or is a reset step, which clears it. -/
theorem onlyResetClearsFault : Obligations.OnlyResetClearsFault := by
  unfold Obligations.OnlyResetClearsFault
  intro s hf
  obtain ⟨t, ht, hsame | ⟨rest, hn, rfl⟩⟩ := step_of_faulted hf
  · exact ⟨t, ht, .inl hsame.status⟩
  · exact ⟨_, ht, .inr ⟨rest, hn, rfl⟩⟩

/-- Settles O43: a reset step is `resetEngine`, which leaves the host's part. -/
theorem resetClearsEveryRegister : Obligations.ResetClearsEveryRegister := by
  unfold Obligations.ResetClearsEveryRegister
  rintro s rest ⟨hr, hp⟩
  exact ⟨_, step_of_pending hr hp, resetEngine_launch _, rfl, rfl, rfl, rfl, rfl, rfl, rfl⟩

/-! ### Runs -/

/-- The first step of a run (R246). -/
theorem runSteps_succ {k : Nat} {s t : State} (h : step s = .next t) : runSteps (k + 1) s = runSteps k t := by
  rw [runSteps, h]

/-- A run that has ended stays as it is (R248). -/
theorem runSteps_of_runEnded {s : State} (h : s.RunEnded) (k : Nat) : runSteps k s = s := by
  induction k with
  | zero => rfl
  | succ k ih => rw [runSteps_succ (step_of_runEnded h), ih]

/-- A step leaves no action to come that was not there before. -/
theorem mem_pending_of_step {s t : State} {e : HostEvent} (h : step s = .next t) (he : e ∈ t.pending) :
    e ∈ s.pending := by
  obtain ⟨u, hu, hpending⟩ := everyStepCompletes.2 s
  cases h.symm.trans hu
  rw [hpending] at he
  split at he
  · exact he
  · exact List.mem_of_mem_tail he

/-- Without a reset to come, a faulted engine keeps STATUS and every result over any number of steps (R220). -/
theorem runSteps_sameResults {k : Nat} {s : State} (hf : s.status.fault = true) (hreset : .reset ∉ s.pending) :
    SameResults s (runSteps k s) := by
  induction k generalizing s with
  | zero => exact .refl s
  | succ k ih =>
    obtain ⟨t, ht, hsame | ⟨rest, ⟨-, hp⟩, -⟩⟩ := step_of_faulted hf
    · rw [runSteps_succ ht]
      exact hsame.trans (ih (hsame.status ▸ hf) fun h => hreset (mem_pending_of_step ht h))
    · exact absurd (by simp [hp]) hreset

/-- Settles O41, by induction on the number of steps. -/
theorem faultLastsUntilReset : Obligations.FaultLastsUntilReset := by
  unfold Obligations.FaultLastsUntilReset
  intro k s hf hreset
  obtain ⟨hstatus, hdout, hrk, htrace⟩ := runSteps_sameResults (k := k) hf hreset
  exact ⟨hstatus, hdout, hrk, htrace⟩

end Sys2Proof.Machine
end

section
/-! SUPPORT and PROOFS. Two states that differ only in the values of unwritten registers behave alike: a simulation
with one lemma per shared operation (spec/10_state.md rule R35). -/

namespace Sys2Proof.Machine

open Sys2Proof.Claims

theorem Reg.Agree.refl {w : Nat} (a : Reg w) : Reg.Agree a a := ⟨rfl, fun _ => rfl⟩

/-- Registers that agree hold the same value, or none (R35). -/
theorem Reg.Agree.held {w : Nat} {a b : Reg w} (h : Reg.Agree a b) : a.held = b.held := by
  obtain ⟨hwritten, hvalue⟩ := h
  unfold Reg.held
  split
  case isTrue ha => rw [← hwritten, if_pos ha, hvalue ha]
  case isFalse ha => rw [← hwritten, if_neg ha]

/-- Registers that agree are equal where one of them is written (R35). -/
theorem Reg.Agree.eq {w : Nat} {a b : Reg w} (h : Reg.Agree a b) (ha : a.written = true) : a = b := by
  obtain ⟨va, wa⟩ := a
  obtain ⟨vb, wb⟩ := b
  obtain ⟨hwritten, hvalue⟩ := h
  exact congrArg₂ Reg.mk (hvalue ha) hwritten

/-- States that agree read alike: an unwritten register and a missing record have no value in either (R53, R55). -/
theorem registerValue_congr {s t : State} (h : State.Agree s t) (r : RegName) :
    registerValue r s = registerValue r t := by
  cases r with
  | cmd => rfl
  | status => simp only [registerValue, h.status]
  | din => exact h.din.held
  | key => exact h.key.held
  | rkin => exact congrArg (Option.map placed) h.rkin.held
  | dout => exact h.dout.held
  | trlen => simp only [registerValue, State.trlen, h.trace]
  | rk n => exact congrArg (Option.map placed) (h.rk n).held
  | trhdr j => simp only [registerValue, h.trace]
  | trval j => simp only [registerValue, h.trace]

/-- A read keeps agreement: both states observe the same value, or the same draw (R53, R55). -/
theorem hostRead_agree {s t : State} (h : State.Agree s t) (offset : Nat) :
    State.Agree (hostRead offset s) (hostRead offset t) := by
  have hvalue : (regAt offset).bind (registerValue · s) = (regAt offset).bind (registerValue · t) :=
    congrArg (regAt offset).bind (funext (registerValue_congr h))
  unfold hostRead
  rw [← hvalue]
  split
  case h_1 v _ => exact { h with reads := congrArg (· ++ [v]) h.reads }
  case h_2 =>
    exact { h with
      reads := by rw [observeDraw_reads, observeDraw_reads, h.reads, h.drawSource, h.drawCount]
      drawCount := congrArg (· + 1) h.drawCount }

/-- A host write of a register keeps agreement: both registers hold the value written (R35, R52). -/
theorem writeRegister_agree {s t : State} (h : State.Agree s t) (r : RegName) (v : Word) :
    State.Agree (writeRegister r v s) (writeRegister r v t) := by
  cases r with
  | din => exact { h with din := .refl _ }
  | key => exact { h with key := .refl _ }
  | rkin => exact { h with rkin := .refl _ }
  | _ => exact h

/-- A change of STATUS to the same in both keeps agreement. -/
theorem agree_setStatus {s t : State} (h : State.Agree s t) (st : Status) :
    State.Agree { s with status := st } { t with status := st } :=
  { h with status := rfl }

/-- The fault action keeps agreement (R215). -/
theorem raiseFault_agree {s t : State} (h : State.Agree s t) (c : Cause) :
    State.Agree (raiseFault c s) (raiseFault c t) := by
  rw [raiseFault_eq c s, raiseFault_eq c t, ← raiseFault_status_congr h.status]
  exact agree_setStatus h _

/-- States that agree have the same operand registers written. -/
theorem operandsWritten_agree {s t : State} (h : State.Agree s t) (i : Instr) :
    operandsWritten i s = operandsWritten i t := by
  cases i <;> simp only [operandsWritten, h.din.1, h.key.1, h.rkin.1]

/-- States that agree hold the same in what a command reads, where its operands are written. -/
theorem sameReads_of_agree {s t : State} (h : State.Agree s t) {i : Instr} (hw : operandsWritten i s = true) :
    SameReads i s t := by
  cases i with
  | nop => trivial
  | permIp | permFp | permPc1 => exact h.din.eq hw
  | permE | permP | permPc2 => exact ⟨h.din.1, by rw [h.din.2 hw]⟩
  | ksched => exact h.key.eq hw
  | roundf =>
    obtain ⟨hdin, hrkin⟩ := Bool.and_eq_true_iff.mp hw
    exact ⟨h.din.1, by rw [h.din.2 hdin], h.rkin.eq hrkin⟩
  | encrypt =>
    obtain ⟨hdin, hkey⟩ := Bool.and_eq_true_iff.mp hw
    exact ⟨h.din.eq hdin, h.key.eq hkey⟩

/-- States that agree still do after a command's work, where its operands are written. -/
theorem work_agree {s t : State} (h : State.Agree s t) {i : Instr} (hw : operandsWritten i s = true) :
    State.Agree (work i s.traceClear) (work i t.traceClear) := by
  obtain ⟨hdout, hrk, htrace⟩ := work_results (sameReads_of_agree h hw)
  constructor
  case dout =>
    rcases hdout with heq | ⟨hs, ht⟩
    · exact heq ▸ .refl _
    · rw [hs, ht]; exact h.dout
  case rk =>
    rcases hrk with heq | ⟨hs, ht⟩
    · exact fun n => heq ▸ .refl _
    · rw [hs, ht]; exact h.rk
  case trace => exact htrace
  all_goals simp [h.din, h.key, h.rkin, h.status, h.pending, h.reads, h.refused, h.drawCount, h.drawSource]

/-- Two outcomes are next states that agree. -/
def NextAgree (a b : Result) : Prop := ∃ s t, a = .next s ∧ b = .next t ∧ State.Agree s t

theorem NextAgree.next {s t : State} (h : State.Agree s t) : NextAgree (.next s) (.next t) := ⟨s, t, rfl, rfl, h⟩

/-- A command keeps agreement. -/
theorem exec_agree {s t : State} (h : State.Agree s t) (i : Instr) : NextAgree (exec i s) (exec i t) := by
  by_cases hnop : i = .nop
  · subst hnop; exact .next h
  · rw [exec_eq_withOperands hnop, exec_eq_withOperands hnop, ← operandsWritten_agree h]
    cases hw : operandsWritten i s with
    | true => exact .next (work_agree h hw)
    | false => exact .next (raiseFault_agree h _)

/-- A write to CMD keeps agreement (R81). -/
theorem issueCommand_agree {s t : State} (h : State.Agree s t) (v : Word) :
    NextAgree (issueCommand v s) (issueCommand v t) := by
  unfold issueCommand
  rw [← h.status]
  split
  · exact .next h
  · split
    · exact .next (raiseFault_agree h _)
    · exact exec_agree h _

/-- A host write keeps agreement (R52). -/
theorem hostWrite_agree {s t : State} (h : State.Agree s t) (offset : Nat) (v : Word) :
    NextAgree (hostWrite offset v s) (hostWrite offset v t) := by
  unfold hostWrite
  split
  · exact .next h
  · exact issueCommand_agree h v
  · exact .next (writeRegister_agree h _ v)

/-- A reset makes every register the same in both (R40). -/
theorem resetEngine_agree {s t : State} (h : State.Agree s t) : State.Agree (resetEngine s) (resetEngine t) where
  din := .refl _
  key := .refl _
  rkin := .refl _
  dout := .refl _
  rk _ := .refl _
  status := rfl
  trace := rfl
  pending := h.pending
  reads := h.reads
  refused := h.refused
  drawCount := h.drawCount
  drawSource := h.drawSource

/-- An action keeps agreement (R246). -/
theorem performEvent_agree {s t : State} (h : State.Agree s t) (e : HostEvent) :
    NextAgree (performEvent e s) (performEvent e t) := by
  have hrefuse : NextAgree (.next (setRefused s)) (.next (setRefused t)) := .next { h with refused := rfl }
  cases e with
  | write bits offset v =>
    simp only [performEvent]
    split
    · exact hostWrite_agree h offset v
    · exact hrefuse
  | read bits offset =>
    simp only [performEvent]
    split
    · exact .next (hostRead_agree h offset)
    · exact hrefuse
  | reset => exact .next (resetEngine_agree h)
  | refuse why => exact hrefuse

/-- Settles O47: the two states take the same case of a step, and each action keeps agreement. -/
theorem unwrittenValuesAreNeverSeen : Obligations.UnwrittenValuesAreNeverSeen := by
  unfold Obligations.UnwrittenValuesAreNeverSeen
  intro s t h
  rcases step_cases s with ⟨hended, hs⟩ | ⟨e, rest, ⟨hr, hp⟩, hs⟩
  · have ht : t.RunEnded := by rwa [State.RunEnded, ← h.pending, ← h.refused]
    exact ⟨s, t, hs, step_of_runEnded ht, h⟩
  · have hrest : State.Agree { s with pending := rest } { t with pending := rest } := { h with pending := rfl }
    obtain ⟨s', t', hs', ht', hagree⟩ := performEvent_agree hrest e
    exact ⟨s', t', hs.trans hs', (step_of_pending (h.refused ▸ hr) (h.pending ▸ hp)).trans ht', hagree⟩

end Sys2Proof.Machine
end

section
/-! SUPPORT and PROOFS. The trace and the invariant of the registers: the fields of a record (spec/10_state.md rules
R30 to R34), the lengths of the traces commands leave, and what every step keeps (R24, R29, R211). -/

namespace Sys2Proof.Machine

/-- The value of a record is zero-extended (R30, R32). -/
theorem toNat_traceRecord_val {w : Nat} (lbl : Label) (rnd box : Nat) (v : BitVec w) (hw : w ≤ 64) :
    (traceRecord lbl rnd box v).val.toNat = v.toNat := by
  have hpow : 2 ^ w ≤ 2 ^ 64 := Nat.pow_le_pow_right (by decide) hw
  exact (BitVec.toNat_setWidth 64 v).trans (Nat.mod_eq_of_lt (v.isLt.trans_le hpow))

/-- The fields of a record's header are where R30 puts them, and its reserved bits are 0. -/
theorem traceRecord_fields {w : Nat} (lbl : Label) {rnd box : Nat} (v : BitVec w) (hrnd : rnd < 256) (hbox : box < 16)
    (hw : w ≤ 64) :
    (traceRecord lbl rnd box v).label = lbl.code.toNat ∧ (traceRecord lbl rnd box v).round = rnd ∧
      (traceRecord lbl rnd box v).box = box ∧ (traceRecord lbl rnd box v).width = w ∧
      (traceRecord lbl rnd box v).hdr.extractLsb' 20 4 = 0 ∧
      (traceRecord lbl rnd box v).hdr.extractLsb' 32 32 = 0 := by
  have hhdr : (traceRecord lbl rnd box v).hdr.toNat = _ := toNat_traceHeader lbl hrnd hbox hw
  have hcode := lbl.code.isLt
  simp only [TraceRecord.label, TraceRecord.round, TraceRecord.box, TraceRecord.width, ← BitVec.toNat_inj,
    BitVec.extractLsb'_toNat, hhdr, Nat.shiftRight_eq_div_pow, BitVec.ofNat_eq_ofNat,
    BitVec.toNat_ofNat]
  refine ⟨?_, ?_, ?_, ?_, ?_, ?_⟩ <;> omega

/-- The codes of R34 run from 1 to 0x14, and 0x0E is T.SIN's. -/
theorem Label.code_spec (lbl : Label) :
    1 ≤ lbl.code.toNat ∧ lbl.code.toNat ≤ 0x14 ∧ (lbl.code.toNat = 0x0E ↔ lbl = .sin) := by
  cases lbl <;> decide

/-- A record with ROUND 0 to 16, a BOX that fits its label, and one of the six widths is one the engine produces
(R30, R34). -/
theorem traceRecord_produced {w : Nat} (lbl : Label) {rnd box : Nat} (v : BitVec w) (hrnd : rnd ≤ 16)
    (hbox : if lbl = .sin then 1 ≤ box ∧ box ≤ 8 else box = 0) (hw : w ∈ [6, 28, 32, 48, 56, 64]) :
    (traceRecord lbl rnd box v).Produced := by
  have hbox16 : box < 16 := by split at hbox <;> omega
  have hw64 : w ≤ 64 := by
    simp only [List.mem_cons, List.not_mem_nil, or_false] at hw
    omega
  have hrnd256 : rnd < 256 := by omega
  obtain ⟨hlabel, hround, hboxField, hwidth, hreserved, hhigh⟩ := traceRecord_fields lbl v hrnd256 hbox16 hw64
  obtain ⟨h1, h14, hsin⟩ := lbl.code_spec
  refine ⟨hhigh, hreserved, ?_, ?_, ?_, ?_, ?_, ?_⟩
  · rwa [hlabel]
  · rwa [hlabel]
  · rwa [hround]
  · simpa only [hlabel, hsin, hboxField] using hbox
  · rwa [hwidth]
  · rw [hwidth, toNat_traceRecord_val lbl rnd box v hw64]
    exact v.isLt

/-- The rounds of the schedule are numbered from 1 to 16 (R137). -/
theorem ks_rounds_n_le {key : Word} {r : KeyRound} (h : r ∈ (ks key).rounds) : r.n ≤ 16 := by
  obtain ⟨i, hi⟩ := List.mem_iff_getElem?.mp h
  have hlt : i < 16 := ks_rounds_length key ▸ (List.getElem?_eq_some_iff.mp hi).1
  rw [ks_rounds_get key hlt] at hi
  obtain rfl := Option.some.inj hi
  exact hlt

/-- The rounds of an encryption carry the numbers of the schedule's rounds (R183). -/
theorem feistelRounds_n_le {rounds : List KeyRound} (h : ∀ k ∈ rounds, k.n ≤ 16) {l r : Half} {x : Round}
    (hx : x ∈ feistelRounds l r rounds) : x.n ≤ 16 := by
  obtain ⟨i, hi⟩ := List.mem_iff_getElem?.mp hx
  rw [feistelRounds_get, Option.map_eq_some_iff] at hi
  obtain ⟨k, hk, rfl⟩ := hi
  exact h k (List.mem_of_getElem? hk)

/-- The records of the key schedule are produced ones (R141). -/
theorem keyScheduleRecords_produced (key : Word) : ∀ r ∈ keyScheduleRecords (ks key), r.Produced := by
  intro r hr
  simp only [keyScheduleRecords, keyRoundRecords, List.mem_append, List.mem_flatMap, List.mem_cons, List.not_mem_nil,
    or_false] at hr
  rcases hr with (rfl | rfl | rfl) | ⟨k, hk, rfl | rfl | rfl⟩
  · exact traceRecord_produced .pc1out _ (by decide) rfl (by decide)
  · exact traceRecord_produced .c0 _ (by decide) rfl (by decide)
  · exact traceRecord_produced .d0 _ (by decide) rfl (by decide)
  · exact traceRecord_produced .cn _ (ks_rounds_n_le hk) rfl (by decide)
  · exact traceRecord_produced .dn _ (ks_rounds_n_le hk) rfl (by decide)
  · exact traceRecord_produced .kn _ (ks_rounds_n_le hk) rfl (by decide)

/-- The records of KSCHED are produced ones (R141). -/
theorem kschedRecords_produced (key : Word) : ∀ r ∈ kschedRecords key, r.Produced := by
  intro r hr
  rcases List.mem_cons.mp hr with rfl | hr
  · exact traceRecord_produced .key _ (by decide) rfl (by decide)
  · exact keyScheduleRecords_produced key r hr

/-- The records of f in a round up to 16 are produced ones; those of the S-boxes have BOX 1 to 8 (R168). -/
theorem feistelRecords_produced {n : Nat} (hn : n ≤ 16) (fv : FValues) : ∀ r ∈ feistelRecords n fv, r.Produced := by
  intro r hr
  simp only [feistelRecords, List.mem_append, List.mem_map, List.mem_cons, List.not_mem_nil, or_false] at hr
  rcases hr with ((rfl | rfl) | ⟨b, -, rfl⟩) | rfl | rfl
  · exact traceRecord_produced .exp _ hn rfl (by decide)
  · exact traceRecord_produced .xor _ hn rfl (by decide)
  · exact traceRecord_produced .sin _ hn ⟨by omega, by omega⟩ (by decide)
  · exact traceRecord_produced .sout _ hn rfl (by decide)
  · exact traceRecord_produced .pout _ hn rfl (by decide)

/-- The records of one round are produced ones (R186). -/
theorem roundRecords_produced {x : Round} (hn : x.n ≤ 16) : ∀ r ∈ roundRecords x, r.Produced := by
  intro r hr
  simp only [roundRecords, List.mem_append, List.mem_cons, List.not_mem_nil, or_false] at hr
  rcases hr with hr | rfl | rfl
  · exact feistelRecords_produced hn x.fv r hr
  · exact traceRecord_produced .rnew _ hn rfl (by decide)
  · exact traceRecord_produced .lnew _ hn rfl (by decide)

/-- The records of ENCRYPT are produced ones (R186). -/
theorem encryptRecords_produced (pt ky : Word) : ∀ r ∈ encryptRecords pt ky, r.Produced := by
  intro r hr
  simp only [encryptRecords_eq, openingRecords, closingRecords, List.mem_append, List.mem_flatMap, List.mem_cons,
    List.not_mem_nil, or_false] at hr
  rcases hr with (((rfl | rfl | rfl | rfl | rfl) | hr) | ⟨x, hx, hr⟩) | rfl | rfl
  · exact traceRecord_produced .pt _ (by decide) rfl (by decide)
  · exact traceRecord_produced .key _ (by decide) rfl (by decide)
  · exact traceRecord_produced .ipout _ (by decide) rfl (by decide)
  · exact traceRecord_produced .l0 _ (by decide) rfl (by decide)
  · exact traceRecord_produced .r0 _ (by decide) rfl (by decide)
  · exact keyScheduleRecords_produced ky r hr
  · exact roundRecords_produced (feistelRounds_n_le (fun _ => ks_rounds_n_le) hx) r hr
  · exact traceRecord_produced .pre _ (by decide) rfl (by decide)
  · exact traceRecord_produced .ct _ (by decide) rfl (by decide)

/-- The length of the trace a command with its operands written leaves (R31). -/
def traceLength (i : Instr) (s : State) : Nat :=
  match i with
  | .nop => s.trlen
  | .permIp | .permFp | .permE | .permP | .permPc1 | .permPc2 => 0
  | .ksched => 52
  | .roundf => 12
  | .encrypt => 282

/-- The work of a command on a cleared trace leaves a trace of its own length (R109, R141, R168, R186). -/
theorem work_trlen {i : Instr} (hi : i ≠ .nop) (s : State) : (work i s.traceClear).trlen = traceLength i s := by
  cases i with
  | nop => exact absurd rfl hi
  | ksched => exact kschedRecords_length _
  | roundf => exact feistelRecords_length _ _
  | encrypt => exact encryptRecords_length _ _
  | _ => rfl

/-- A command with its operands written leaves a trace of its own length. -/
theorem exec_trlen {i : Instr} {s : State} (hw : operandsWritten i s = true) :
    ∃ t, exec i s = .next t ∧ (i = .nop → t.trace = s.trace) ∧ t.trlen = traceLength i s := by
  rcases exec_cases i s with ⟨rfl, he⟩ | ⟨hne, -, he⟩ | ⟨-, hunwritten, -⟩
  · exact ⟨s, he, fun _ => rfl, rfl⟩
  · exact ⟨_, he, fun h => absurd h hne, work_trlen hne s⟩
  · simp [hw] at hunwritten

/-- Settles O32: the lengths are those of `traceLength`. -/
theorem commandTraceLengths : Obligations.CommandTraceLengths := by
  unfold Obligations.CommandTraceLengths
  intro i s hw
  obtain ⟨t, ht, hnop, hlen⟩ := exec_trlen hw
  refine ⟨t, ht, hnop, ?perm, ?ksched, ?roundf, ?encrypt⟩ <;> rw [hlen]
  case perm =>
    intro hi
    simp only [List.mem_cons, List.not_mem_nil, or_false] at hi
    rcases hi with rfl | rfl | rfl | rfl | rfl | rfl <;> rfl
  all_goals rintro rfl; rfl

/-- The lengths a trace can have after a command other than NOP (R31). -/
theorem traceLength_mem {i : Instr} (hi : i ≠ .nop) (s : State) : traceLength i s ∈ [0, 12, 52, 282] := by
  cases i with
  | nop => exact absurd rfl hi
  | _ => simp [traceLength]

/-- No command leaves more than 282 records of its own (R32). -/
theorem exec_trlen_le (i : Instr) (s : State) : ∃ t, exec i s = .next t ∧ (t.trlen ≤ 282 ∨ t.trace = s.trace) := by
  rcases exec_cases i s with ⟨-, he⟩ | ⟨hne, -, he⟩ | ⟨-, -, he⟩
  · exact ⟨s, he, .inr rfl⟩
  · have hbound : ∀ n ∈ [0, 12, 52, 282], n ≤ 282 := by decide
    exact ⟨_, he, .inl (work_trlen hne s ▸ hbound _ (traceLength_mem hne s))⟩
  · exact ⟨_, he, .inr (raiseFault_trace _ s)⟩

/-- Settles O31: the appended record is entry TRLEN, with the header's fields at their places. -/
theorem traceAppendWritesNextRecord : Obligations.TraceAppendWritesNextRecord := by
  unfold Obligations.TraceAppendWritesNextRecord
  refine ⟨fun s w lbl rnd box v hrnd hbox hw => ?_, exec_trlen_le⟩
  exact ⟨_, traceRecord lbl rnd box v, rfl, rfl, List.getElem?_concat_length, traceAppend_trlen s _,
    fun j hj => List.getElem?_append_left hj, toNat_traceHeader lbl hrnd hbox hw,
    toNat_traceRecord_val lbl rnd box v hw⟩

/-! ### The invariant -/

/-- Settles O48. -/
theorem resetStateMeetsInvariant : Obligations.ResetStateMeetsInvariant where
  causeMatchesFault := by decide
  traceLength := by decide
  recordsProduced _ h := absurd h List.not_mem_nil
  roundKeysTogether _ _ := by simp [State.reset]
  traceHasDout h := absurd h (by decide)
  traceHasKeys h := absurd h (by decide)

/-- The invariant speaks of STATUS, of DOUT's and the round keys' written flags, and of the trace alone. -/
theorem inv_of_sameResults {s t : State} (h : s.Inv) (hsame : SameResults s t) : t.Inv := by
  obtain ⟨hstatus, hdout, hrk, htrace⟩ := hsame
  obtain ⟨h1, h2, h3, h4, h5, h6⟩ := h
  constructor <;> simpa only [State.trlen, hstatus, hdout, hrk, htrace]

/-- The records a command leaves are produced ones. -/
theorem work_recordsProduced {i : Instr} (hi : i ≠ .nop) (s : State) :
    ∀ r ∈ (work i s.traceClear).trace, r.Produced := by
  cases i with
  | nop => exact absurd rfl hi
  | ksched => exact kschedRecords_produced _
  | roundf => exact feistelRecords_produced (by decide) _
  | encrypt => exact encryptRecords_produced _ _
  | _ => exact fun r h => absurd h List.not_mem_nil

/-- A command writes the round-key file as a whole or not at all (R29). -/
theorem work_roundKeysTogether {s : State} (h : ∀ m n : Fin 16, s.rk[m].written = s.rk[n].written) (i : Instr)
    (m n : Fin 16) : (work i s.traceClear).rk[m].written = (work i s.traceClear).rk[n].written := by
  cases i with
  | ksched | encrypt => simp [work, Reg.holding]
  | _ => exact h m n

/-- A trace of 12 or 282 records stands beside the DOUT of ROUNDF or ENCRYPT (R168, R188). -/
theorem work_traceHasDout {i : Instr} (hi : i ≠ .nop) {s : State} (h : traceLength i s = 12 ∨ traceLength i s = 282) :
    (work i s.traceClear).dout.written = true := by
  cases i with
  | nop => exact absurd rfl hi
  | ksched => simp [traceLength] at h
  | _ => rfl

/-- A trace of 52 or 282 records stands beside the round keys of KSCHED or ENCRYPT (R141, R188). -/
theorem work_traceHasKeys {i : Instr} (hi : i ≠ .nop) {s : State} (h : traceLength i s = 52 ∨ traceLength i s = 282) :
    (work i s.traceClear).rk[0].written = true := by
  cases i with
  | nop => exact absurd rfl hi
  | ksched | encrypt => simp [work, Reg.holding]
  | _ => simp [traceLength] at h

/-- The work of a command keeps the invariant. -/
theorem work_inv {s : State} (h : s.Inv) {i : Instr} (hi : i ≠ .nop) : (work i s.traceClear).Inv where
  causeMatchesFault := by simpa using h.causeMatchesFault
  traceLength := work_trlen hi s ▸ traceLength_mem hi s
  recordsProduced := work_recordsProduced hi s
  roundKeysTogether := work_roundKeysTogether h.roundKeysTogether i
  traceHasDout hlen := work_traceHasDout hi (work_trlen hi s ▸ hlen)
  traceHasKeys hlen := work_traceHasKeys hi (work_trlen hi s ▸ hlen)

/-- A fault recorded with a cause keeps the invariant (R211, R215). -/
theorem inv_of_fault {s : State} (h : s.Inv) {c : Cause} (hc : c ≠ .none) : State.Inv { s with status := ⟨true, c⟩ } :=
  { h with causeMatchesFault := by simp [hc] }

/-- A command keeps the invariant. -/
theorem exec_inv {i : Instr} {s t : State} (h : s.Inv) (he : exec i s = .next t) : t.Inv := by
  rcases exec_cases i s with ⟨-, hs⟩ | ⟨hne, -, hs⟩ | ⟨-, -, hs⟩ <;> cases hs.symm.trans he
  · exact h
  · exact work_inv h hne
  · rcases raiseFault_cases .unwrittenOperand s with ⟨-, hr⟩ | ⟨-, hr⟩ <;> rw [hr]
    · exact h
    · exact inv_of_fault h (by decide)

/-- A write to CMD keeps the invariant. -/
theorem issueCommand_inv {v : Word} {s t : State} (h : s.Inv) (he : issueCommand v s = .next t) : t.Inv := by
  rcases issueCommand_cases v s with ⟨-, hs⟩ | ⟨-, -, hs⟩ | ⟨-, i, -, hs⟩
  · cases hs.symm.trans he; exact h
  · cases hs.symm.trans he; exact inv_of_fault h (by decide)
  · exact exec_inv h (hs ▸ he)

/-- A host write keeps the invariant. -/
theorem hostWrite_inv {offset : Nat} {v : Word} {s t : State} (h : s.Inv) (he : hostWrite offset v s = .next t) :
    t.Inv := by
  rcases hostWrite_cases offset v s with ⟨-, hs⟩ | ⟨-, hs⟩ | ⟨r, -, -, hs⟩
  · cases hs.symm.trans he; exact h
  · exact issueCommand_inv h (hs ▸ he)
  · cases hs.symm.trans he; exact inv_of_sameResults h (writeRegister_sameResults r v s)

/-- A reset of the engine leaves the registers of the reset state. -/
theorem resetEngine_inv (s : State) : (resetEngine s).Inv :=
  inv_of_sameResults resetStateMeetsInvariant ⟨rfl, rfl, rfl, rfl⟩

/-- An action keeps the invariant. -/
theorem performEvent_inv {e : HostEvent} {s t : State} (h : s.Inv) (he : performEvent e s = .next t) : t.Inv := by
  rcases performEvent_cases e s with ⟨offset, v, -, -, hs⟩ | ⟨offset, -, -, hs⟩ | ⟨-, hs⟩ | hs
  · exact hostWrite_inv h (hs ▸ he)
  · cases hs.symm.trans he; exact inv_of_sameResults h (hostRead_sameResults offset s)
  · cases hs.symm.trans he; exact resetEngine_inv s
  · cases hs.symm.trans he; exact inv_of_sameResults h ⟨rfl, rfl, rfl, rfl⟩

/-- Settles O49: an idle step changes nothing, and every action keeps the invariant. -/
theorem stepKeepsInvariant : Obligations.StepKeepsInvariant := by
  unfold Obligations.StepKeepsInvariant
  intro s h
  rcases step_cases s with ⟨-, hs⟩ | ⟨e, rest, -, hs⟩
  · exact ⟨s, hs, h⟩
  · obtain ⟨t, ht⟩ := performEvent_next e { s with pending := rest }
    have hrest : State.Inv { s with pending := rest } := inv_of_sameResults h ⟨rfl, rfl, rfl, rfl⟩
    exact ⟨t, hs.trans ht, performEvent_inv hrest ht⟩

end Sys2Proof.Machine
end

section
/-! PROOFS. The permutation tables IP and FP, and what permute keeps (spec/40_permutation.md rules R101 and R108). -/

namespace Sys2Proof.Machine

/-- Each entry of FP is the place where IP puts that position, and the other way round (R108). -/
theorem ip_fp_inverse_entries :
    (∀ k, k < 64 → (fpTable.entries[k]?.bind fun t => ipTable.entries[t - 1]?) = some (k + 1)) ∧
    (∀ k, k < 64 → (ipTable.entries[k]?.bind fun t => fpTable.entries[t - 1]?) = some (k + 1)) := by decide

/-- Settles O13: entry by entry, the two tables undo each other. -/
theorem finalPermutationInvertsInitial : Obligations.FinalPermutationInvertsInitial := by
  unfold Obligations.FinalPermutationInvertsInitial
  obtain ⟨hfp, hip⟩ := ip_fp_inverse_entries
  exact ⟨permute_permute_of_inverse ipTable fpTable fun k hk => Option.bind_eq_some_iff.mp (hfp k hk),
    permute_permute_of_inverse fpTable ipTable fun k hk => Option.bind_eq_some_iff.mp (hip k hk)⟩

/-- permute of all zeros is all zeros (R101). -/
theorem permute_zero {win wout : Nat} (T : PermTable win wout) : permute T (0 : BitVec win) = 0 := by
  apply eq_of_pos_eq
  intro k h1 hk
  rw [pos_permute T _ h1 hk]
  simp [pos]

/-- Settles O14: all ones is the complement of all zeros, and permute commutes with complement. -/
theorem permuteKeepsConstants : Obligations.PermuteKeepsConstants := by
  unfold Obligations.PermuteKeepsConstants
  refine fun win wout T => ⟨permute_zero T, ?_⟩
  rw [← BitVec.not_zero, ← BitVec.not_zero]
  exact (permute_not T 0).trans (congrArg (~~~·) (permute_zero T))

end Sys2Proof.Machine
end

section
/-! PROOFS. Rotations and the key schedule (spec/41_key_schedule.md rules R133 to R140). -/

namespace Sys2Proof.Machine

open Sys2Proof.Claims

/-- rotl28 rotates the list of positions (R133). -/
theorem bitsOf_rotl28 (v : KeyHalf) {s : Nat} (hs : s ≤ 28) : bitsOf (rotl28 v s) = (bitsOf v).rotate s := by
  apply List.ext_getElem (by simp)
  intro k hk _
  rw [length_bitsOf] at hk
  rw [List.getElem_rotate]
  simp only [bitsOf, List.getElem_map, List.getElem_range, List.length_map, List.length_range]
  rw [pos_rotl28 v hs (by omega) (by omega), Nat.add_sub_cancel]

/-- rotl28 in the integer view (R133). -/
theorem toNat_rotl28 (v : KeyHalf) (s : Nat) :
    (rotl28 v s).toNat = ((v.toNat <<< s) ||| (v.toNat >>> (28 - s))) &&& 0xFFFFFFF := by
  have hlow : v.toNat >>> (28 - s) < 2 ^ 28 := (Nat.shiftRight_le _ _).trans_lt v.isLt
  rw [show 0xFFFFFFF = 2 ^ 28 - 1 from rfl, Nat.and_two_pow_sub_one_eq_mod, Nat.or_mod_two_pow,
    Nat.mod_eq_of_lt hlow]
  simp [rotl28]

/-- Settles O15: rotl28 rotates the positions, so it keeps the number of 1 bits. -/
theorem rotlMovesPositionsLeft : Obligations.RotlMovesPositionsLeft := by
  unfold Obligations.RotlMovesPositionsLeft
  refine ⟨fun v s hs => ?_, by decide, by decide, by decide, by decide⟩
  have hs28 : s ≤ 28 := by omega
  refine ⟨fun k => pos_rotl28 v hs28, toNat_rotl28 v s, ?count, ?ones, ?zeros⟩
  case count => rw [bitsOf_rotl28 v hs28]; exact (List.rotate_perm _ _).count_eq true
  case ones => rcases hs with rfl | rfl <;> decide
  case zeros => rcases hs with rfl | rfl <;> decide

/-- The cumulative row of R134 holds the sums of the first shifts. -/
theorem cumulativeShifts_get {i : Nat} (hi : i < 16) :
    cumulativeShifts[i]? = some (shiftSchedule.take (i + 1)).sum := by
  revert i
  decide

/-- Settles O17: `ks_rounds_get` gives each round by the sum of the shifts up to it. -/
theorem keyRotationsAddUp : Obligations.KeyRotationsAddUp := by
  unfold Obligations.KeyRotationsAddUp
  intro key n h1 h16
  obtain ⟨i, rfl⟩ := Nat.exists_eq_add_of_le' h1
  exact ⟨_, _, ks_rounds_get key (by omega), cumulativeShifts_get (by omega), rfl, rfl, rfl⟩

/-- The sixteen shifts add up to a full rotation (R140). -/
theorem rotateLeft_sum_shiftSchedule (v : KeyHalf) : v.rotateLeft shiftSchedule.sum = v := by
  apply eq_of_pos_eq
  intro k h1 hk
  rw [pos_rotateLeft v _ h1 hk, show shiftSchedule.sum = 28 by decide]
  congr 1
  omega

/-- Settles O18: the last round is a full rotation, and the round keys of constant halves are PC-2 of the halves. -/
theorem keyScheduleReturnsToStart : Obligations.KeyScheduleReturnsToStart := by
  unfold Obligations.KeyScheduleReturnsToStart
  refine ⟨fun key => ?last, fun key h m n => ?equal, ?keys⟩
  case last =>
    exact ⟨_, ks_rounds_get key (by decide), rotateLeft_sum_shiftSchedule _, rotateLeft_sum_shiftSchedule _⟩
  case equal => rw [roundKeys_of_constantHalves h, roundKeys_of_constantHalves h]
  case keys =>
    unfold ConstantHalves
    decide +kernel

/-- An encryption depends on the key through its schedule alone (R181). -/
theorem desEncrypt_congr {k k' : Word} (h : ks k = ks k') (pt : Word) : desEncrypt pt k = desEncrypt pt k' := by
  simp only [desEncrypt, h]

/-- Keys with the same schedule have the same round keys. -/
theorem roundKeys_congr {k k' : Word} (h : ks k = ks k') : roundKeys k = roundKeys k' :=
  Vector.toArray_inj.mp (congrArg (fun sched => (sched.rounds.map KeyRound.k).toArray) h)

/-- KSCHED of keys with the same schedule leaves the same records but for T.KEY (R141). -/
theorem kschedRecords_get_congr {k k' : Word} (h : ks k = ks k') {j : Nat} (hj : j ≠ 0) :
    (kschedRecords k)[j]? = (kschedRecords k')[j]? := by
  obtain ⟨i, rfl⟩ := Nat.exists_eq_succ_of_ne_zero hj
  rw [kschedRecords, kschedRecords, h, List.getElem?_cons_succ, List.getElem?_cons_succ]

/-- ENCRYPT under keys with the same schedule leaves the same records but for T.KEY (R186). -/
theorem encryptRecords_get_congr {k k' : Word} (h : ks k = ks k') (pt : Word) {j : Nat} (hj : j ≠ 1) :
    (encryptRecords pt k)[j]? = (encryptRecords pt k')[j]? := by
  simp only [encryptRecords, desEncrypt_congr h]
  match j with
  | 0 => rfl
  | 1 => exact absurd rfl hj
  | j + 2 => rfl

/-- KSCHED of a key the host has just written loads its round keys and raises nothing (R138, R141). -/
theorem exec_ksched_setKey (s : State) (k : Word) : ∃ t, exec .ksched (s.setKey k) = .next t ∧
    t.rk = (roundKeys k).map Reg.holding ∧ t.status = s.status :=
  ⟨_, exec_ksched_of_key_written rfl, rfl, rfl⟩

/-- Settles O19: the two keys have the same schedule. -/
theorem parityPositionsIgnored : Obligations.ParityPositionsIgnored := by
  unfold Obligations.ParityPositionsIgnored
  intro k k' hpos
  have h := ks_eq_of_pos_eq_off_parity hpos
  refine ⟨h, fun pt => by rw [desEncrypt_congr h], fun _ => kschedRecords_get_congr h,
    fun pt _ => encryptRecords_get_congr h pt, fun s => ?ksched⟩
  case ksched =>
    obtain ⟨t, ht, hrk, hstatus⟩ := exec_ksched_setKey s k
    obtain ⟨t', ht', hrk', hstatus'⟩ := exec_ksched_setKey s k'
    exact ⟨t, t', ht, ht', by rw [hrk, hrk', roundKeys_congr h], hstatus, hstatus'⟩

end Sys2Proof.Machine
end

section
/-! PROOFS. The S-boxes (spec/42_round_function.md rules R154, R166 and R167), and what f depends on (R157). -/

namespace Sys2Proof.Machine

/-- The block of a row and a column: the row's bits at the ends, the column's in the middle (R154). -/
def blockOf (row : Fin 4) (col : Fin 16) : BitVec 6 :=
  BitVec.ofNat 6 (32 * (row.val / 2) + 2 * col.val + row.val % 2)

/-- A block is the one of its row and its column (R154). -/
theorem blockOf_rowOf_colOf : ∀ B : BitVec 6, blockOf (rowOf B) (colOf B) = B := by decide

/-- The block of a row and a column has that row and that column (R154). -/
theorem rowOf_colOf_blockOf : ∀ (row : Fin 4) (col : Fin 16),
    rowOf (blockOf row col) = row ∧ colOf (blockOf row col) = col := by decide

/-- The rows of the S-boxes have no entry twice (R167). -/
theorem sbox_row_nodup : ∀ (b : Fin 8) (row : Fin 4), ((sboxes[b])[row]).toList.Nodup := by decide +kernel

/-- A row of sixteen entries without repetition holds each 4-bit value exactly once (R167). -/
theorem exists_column_of_nodup {row : Vector (BitVec 4) 16} (h : row.toList.Nodup) (v : BitVec 4) :
    ∃ col : Fin 16, ∀ c : Fin 16, row[c] = v ↔ c = col := by
  have hinj : Function.Injective fun c : Fin 16 => row[c].toFin := by
    intro c c' hcc
    have hget : row.toList[c.val] = row.toList[c'.val] := BitVec.toFin_inj.mp (by simpa using hcc)
    exact Fin.ext ((h.getElem_inj_iff).mp hget)
  obtain ⟨col, hcol⟩ := Finite.injective_iff_surjective.mp hinj v.toFin
  refine ⟨col, fun c => ⟨fun hc => hinj ?_, ?_⟩⟩
  · simp only [hc, hcol]
  · rintro rfl
    exact BitVec.toFin_inj.mp hcol

/-- One changed input bit changes at least two output bits of an S-box (R166). -/
theorem sbox_one_bit_changes_two : ∀ (b : Fin 8) (B : BitVec 6) (i : Fin 6),
    2 ≤ (bitsOf (sboxLookup sboxes[b] B ^^^ sboxLookup sboxes[b] (B ^^^ BitVec.twoPow 6 i.val))).count true := by
  decide +kernel

/-- Settles O22: the rows have no repetition, the 3072 changes of one bit are computed, and `blockOf` inverts the
row and the column. -/
theorem substitutionBoxProperties : Obligations.SubstitutionBoxProperties := by
  unfold Obligations.SubstitutionBoxProperties
  refine ⟨fun b row => exists_column_of_nodup (sbox_row_nodup b row), sbox_one_bit_changes_two, ?blocks⟩
  case blocks =>
    refine fun row col => ⟨blockOf row col, fun B => ⟨?_, ?_⟩⟩
    · rintro ⟨rfl, rfl⟩
      exact (blockOf_rowOf_colOf B).symm
    · rintro rfl
      exact rowOf_colOf_blockOf row col

/-- f depends on R and K through E(R) ⊕ K alone (R157). -/
theorem feistel_congr {r r' : Half} {k k' : RoundKey} (h : permute eTable r ^^^ k = permute eTable r' ^^^ k') :
    (feistel r k).x = (feistel r' k').x ∧ (feistel r k).sout = (feistel r' k').sout ∧
      (feistel r k).pout = (feistel r' k').pout := by
  simp only [feistel, h, and_self]

/-- Complementing R and K leaves f's output as it is (R157). -/
theorem feistel_pout_not (r : Half) (k : RoundKey) : (feistel (~~~r) (~~~k)).pout = (feistel r k).pout := by
  have hmix : permute eTable (~~~r) ^^^ ~~~k = permute eTable r ^^^ k := by
    rw [permute_not, ← BitVec.not_xor_left, ← BitVec.not_xor_right, BitVec.not_not]
  obtain ⟨-, -, hpout⟩ := feistel_congr hmix
  exact hpout

/-- Settles O24. -/
theorem roundFunctionReadsTheMixOnly : Obligations.RoundFunctionReadsTheMixOnly := by
  unfold Obligations.RoundFunctionReadsTheMixOnly
  exact ⟨fun _ _ _ _ => feistel_congr, fun r k => (feistel_pout_not r k).symm⟩

end Sys2Proof.Machine
end

section
/-! PROOFS. ENCRYPT (spec/43_pipeline.md rule R188): its results, the complementation law, and keys that undo
themselves (spec/95_test_vectors.md section 4). -/

namespace Sys2Proof.Machine

open Sys2Proof.Claims

/-- With DIN or KEY unwritten the operands of ENCRYPT are not written (R216). -/
theorem operandsWritten_encrypt_eq_false {s : State} (h : s.din.written = false ∨ s.key.written = false) :
    operandsWritten .encrypt s = false := by
  rcases h with h | h <;> simp [operandsWritten, h]

/-- Settles O27: the fault is the shared shape's; the result is written out by `exec_encrypt_of_operands_written`; the
four known answers are computed. -/
theorem encryptWritesCiphertextKeysAndTrace : Obligations.EncryptWritesCiphertextKeysAndTrace := by
  unfold Obligations.EncryptWritesCiphertextKeysAndTrace
  refine ⟨fun s => ⟨fun hop hf => exec_of_operands_unwritten hf (operandsWritten_encrypt_eq_false hop),
    fun hdin hkey => ?written⟩, ?values⟩
  case written =>
    exact ⟨_, exec_encrypt_of_operands_written hdin hkey, rfl, rfl, holdsRoundKeys_of_rk rfl, encryptRecords_length _ _⟩
  case values => decide +kernel

/-! ### Complementation -/

/-- The rotation of a complement is the complement of the rotation. -/
theorem rotateLeft_not (v : KeyHalf) (m : Nat) : (~~~v).rotateLeft m = ~~~v.rotateLeft m := by
  apply eq_of_pos_eq
  intro k h1 hk
  rw [pos_rotateLeft _ m h1 hk, pos_not _ (by omega) (by omega), pos_not _ h1 hk, pos_rotateLeft v m h1 hk]

/-- The halves of the complement of a key are the complements of its halves. -/
theorem ks_halves_not (key : Word) : (ks (~~~key)).c0 = ~~~(ks key).c0 ∧ (ks (~~~key)).d0 = ~~~(ks key).d0 := by
  simp only [ks, permute_not]
  exact ⟨span_not _ (by decide) (by decide), span_not _ (by decide) (by decide)⟩

/-- The round keys of the complement of a key are the complements of its round keys. -/
theorem ks_rounds_get_not {key : Word} {i : Nat} (hi : i < 16) : ∃ k k', (ks key).rounds[i]? = some k ∧
    (ks (~~~key)).rounds[i]? = some k' ∧ k'.k = ~~~k.k := by
  obtain ⟨hc, hd⟩ := ks_halves_not key
  refine ⟨_, _, ks_rounds_get key hi, ks_rounds_get _ hi, ?_⟩
  simp only [hc, hd, rotateLeft_not, ← BitVec.not_append, permute_not]

/-- Complementing the block and the key complements the halves after every round. -/
theorem encryptionHalves_not (pt ky : Word) {n : Nat} (hn : n ≤ 16) :
    encryptionHalves (~~~pt) (~~~ky) n = (~~~(encryptionHalves pt ky n).1, ~~~(encryptionHalves pt ky n).2) := by
  induction n with
  | zero =>
    simp only [encryptionHalves, halvesAfter, permute_not]
    rw [span_not _ (by decide) (by decide), span_not _ (by decide) (by decide)]
  | succ n ih =>
    obtain ⟨k, k', hk, hk', hnot⟩ := ks_rounds_get_not (key := ky) (i := n) (by omega)
    rw [encryptionHalves_succ _ hk, encryptionHalves_succ _ hk', ih (by omega), hnot, feistel_pout_not,
      ← BitVec.not_xor_left]

/-- Settles O29: complement passes through every round, and then through FP. -/
theorem encryptionComplementation : Obligations.EncryptionComplementation := by
  unfold Obligations.EncryptionComplementation
  intro pt ky
  rw [desEncrypt_ct, desEncrypt_ct, desEncrypt_pre, desEncrypt_pre, encryptionHalves_not pt ky (le_refl 16),
    ← BitVec.not_append, permute_not]

/-! ### Equal round keys -/

/-- One round with round key k, on the halves (R183). -/
def halfRound (k : RoundKey) (h : Half × Half) : Half × Half := (h.2, h.1 ^^^ (feistel h.2 k).pout)

/-- A round undoes itself when the halves are exchanged before and after. -/
theorem halfRound_swap_halfRound (k : RoundKey) (h : Half × Half) : halfRound k (halfRound k h).swap = h.swap := by
  simp [halfRound, Prod.swap]

/-- So do any number of rounds with one round key. -/
theorem iterate_halfRound_swap (k : RoundKey) (n : Nat) (h : Half × Half) :
    (halfRound k)^[n] ((halfRound k)^[n] h).swap = h.swap := by
  induction n generalizing h with
  | zero => rfl
  | succ n ih => rw [Function.iterate_succ_apply', Function.iterate_succ_apply, ih, halfRound_swap_halfRound]

/-- With one round key in every round, the halves are made by the same round over and over. -/
theorem encryptionHalves_eq_iterate {ky : Word} {k : RoundKey} (h : ∀ n : Fin 16, (roundKeys ky)[n] = k) (pt : Word)
    {n : Nat} (hn : n ≤ 16) : encryptionHalves pt ky n = (halfRound k)^[n] (encryptionHalves pt ky 0) := by
  induction n with
  | zero => rfl
  | succ n ih =>
    obtain ⟨r, hr, hk⟩ := roundKeys_get ky ⟨n, hn⟩
    rw [encryptionHalves_succ pt hr, ← hk, h, ih (by omega), Function.iterate_succ_apply', halfRound]

/-- The two halves of two half-blocks side by side (R13). -/
theorem span_append (a b : Half) : span (a ++ b) 1 32 = a ∧ span (a ++ b) 33 32 = b := by
  constructor <;> apply eq_of_pos_eq <;> intro k h1 hk <;>
    rw [pos_span _ h1 hk (by decide), pos_append _ _ _ (by omega)]
  · rw [if_pos (by omega), Nat.add_sub_cancel_left]
  · rw [if_neg (by omega)]
    congr 1; omega

/-- A block is its two halves side by side (R13). -/
theorem span_append_span (v : Word) : span v 1 32 ++ span v 33 32 = v := by
  apply eq_of_pos_eq
  intro k h1 hk
  rw [pos_append _ _ _ hk]
  split
  · rw [pos_span _ h1 (by omega) (by decide), Nat.add_sub_cancel_left]
  · rw [pos_span _ (by omega) (by omega) (by decide)]
    congr 1; omega

/-- Encrypting a ciphertext starts from the halves its encryption ended with, exchanged (R181, R184). -/
theorem encryptionHalves_ct (pt ky : Word) :
    encryptionHalves (desEncrypt pt ky).ct ky 0 = (encryptionHalves pt ky 16).swap := by
  obtain ⟨-, hip⟩ := finalPermutationInvertsInitial
  obtain ⟨hleft, hright⟩ := span_append (encryptionHalves pt ky 16).2 (encryptionHalves pt ky 16).1
  rw [desEncrypt_ct, desEncrypt_pre]
  conv_lhs => rw [encryptionHalves, halvesAfter, hip, hleft, hright]
  rfl

/-- Settles O30: the second encryption runs the same rounds on the exchanged halves, which undoes them. -/
theorem equalRoundKeysUndoThemselves : Obligations.EqualRoundKeysUndoThemselves := by
  unfold Obligations.EqualRoundKeysUndoThemselves
  intro ky h pt
  have hk : ∀ n : Fin 16, (roundKeys ky)[n] = (roundKeys ky)[(0 : Fin 16)] := fun n => h n 0
  have hend : encryptionHalves (desEncrypt pt ky).ct ky 16 = (encryptionHalves pt ky 0).swap := by
    rw [encryptionHalves_eq_iterate hk _ (le_refl 16), encryptionHalves_ct,
      encryptionHalves_eq_iterate hk pt (le_refl 16), iterate_halfRound_swap]
  obtain ⟨hfp, -⟩ := finalPermutationInvertsInitial
  calc (desEncrypt (desEncrypt pt ky).ct ky).ct
      = permute fpTable (span (permute ipTable pt) 1 32 ++ span (permute ipTable pt) 33 32) := by
        rw [desEncrypt_ct, desEncrypt_pre, hend]; rfl
    _ = pt := by rw [span_append_span, hfp]

end Sys2Proof.Machine
end

section
/-! SUPPORT and PROOFS. Host accesses (spec/20_memory.md rules R51 to R66, spec/60_exceptions.md rules R218 and R222):
the register map, reads as steps, refused actions, and the host's encryption sequence (R243). -/

namespace Sys2Proof.Machine

open Sys2Proof.Claims

/-- The slots without a register are the three reserved ranges (R51). -/
theorem regAt_eq_none_iff {off : Nat} (h8 : off % 8 = 0) (hlt : off < windowSize) : regAt off = none ↔
    (0x038 ≤ off ∧ off ≤ 0x07F) ∨ (0x100 ≤ off ∧ off ≤ 0xFFF) ∨ (0x21A0 ≤ off ∧ off ≤ 0x2FFF) := by
  unfold windowSize at hlt
  fun_cases regAt off <;> simp only [reduceCtorEq, false_iff, true_iff] <;> omega

/-- Settles O33: the offsets are those of `offsetOf`, which `regAt` inverts. -/
theorem registerMapSlots : Obligations.RegisterMapSlots := by
  unfold Obligations.RegisterMapSlots
  refine ⟨⟨rfl, rfl, rfl, rfl, rfl, rfl, rfl, fun _ => rfl, fun _ => ⟨rfl, rfl⟩⟩, fun r => ⟨regAt_offsetOf r, ?_⟩,
    fun off => regAt_eq_none_iff, fun off r _ => eq_offsetOf_of_regAt⟩
  exact accessLegal_64_iff.mp (accessLegal_offsetOf r)

/-- A step whose next action is a legal read performs it. -/
theorem step_read {s : State} {offset : Nat} {rest : List HostEvent} (hn : NextAction s (.read 64 offset) rest)
    (h8 : offset % 8 = 0) (hlt : offset < windowSize) :
    step s = .next (hostRead offset { s with pending := rest }) := by
  obtain ⟨hr, hp⟩ := hn
  rw [step_of_pending hr hp, performEvent, if_pos (accessLegal_64_iff.mpr ⟨h8, hlt⟩)]

/-- A read with no defined value observes the next draw and changes no register (R55). -/
theorem hostRead_of_no_value {off : Nat} {s : State} (h : ∀ r, regAt off = some r → registerValue r s = none) :
    hostRead off s = observeDraw s := by
  have hnone : (regAt off).bind (registerValue · s) = none := Option.bind_eq_none_iff.mpr h
  rw [hostRead, hnone]

/-- A register that is not written holds no value (R35). -/
theorem held_of_unwritten {w : Nat} {r : Reg w} (h : r.written = false) : r.held = none := by
  simp [Reg.held, h]

/-- A write where no register takes one is ignored (R55). -/
theorem hostWrite_of_not_writable {off : Nat} (h : ∀ r, regAt off = some r → r ∉ [RegName.cmd, .din, .key, .rkin])
    (v : Word) (s : State) : hostWrite off v s = .next s := by
  rcases hostWrite_cases off v s with ⟨-, hw⟩ | ⟨hcmd, -⟩ | ⟨r, hr, -, hw⟩
  · exact hw
  · exact absurd (by simp) (h _ hcmd)
  · cases r with
    | din | key | rkin => exact absurd (by simp) (h _ hr)
    | _ => exact hw

/-- Settles O36: the writes named find no register that takes them, and the reads named find no value. -/
theorem undefinedAccessesDrawOrIgnore : Obligations.UndefinedAccessesDrawOrIgnore := by
  unfold Obligations.UndefinedAccessesDrawOrIgnore
  intro s off rest h8 hlt
  refine ⟨fun v hn h => ?write, fun hn h => ?read⟩
  case write =>
    rw [step_write hn h8 hlt]
    refine hostWrite_of_not_writable (fun r hr => ?_) v _
    rcases h with hnone | ⟨r', hr', hnot⟩
    · simp [hr] at hnone
    · cases hr.symm.trans hr'
      exact hnot
  case read =>
    rw [step_read hn h8 hlt]
    refine congrArg Host.Outcome.next (hostRead_of_no_value fun r hr => ?_)
    rw [registerValue_pending]
    simp only [hr, reduceCtorEq, Option.some.injEq, false_or] at h
    rcases h with ⟨rfl, h⟩ | ⟨rfl, h⟩ | ⟨rfl, h⟩ | ⟨rfl, h⟩ | ⟨n, rfl, h⟩ | ⟨j, rfl | rfl, h⟩
    · exact held_of_unwritten h
    · exact held_of_unwritten h
    · exact congrArg (Option.map placed) (held_of_unwritten h)
    · exact held_of_unwritten h
    · exact congrArg (Option.map placed) (held_of_unwritten h)
    · exact congrArg (Option.map TraceRecord.hdr) (List.getElem?_eq_none h)
    · exact congrArg (Option.map TraceRecord.val) (List.getElem?_eq_none h)

/-! ### Refused actions -/

/-- A text of a length other than 8, or with a character code above 255, is no operand (R63, R65). -/
theorem textOperand_error {text : List Char} (h : text.length ≠ 8 ∨ ∃ c ∈ text, 255 < c.toNat) :
    ∃ why, textOperand text = .error why := by
  unfold textOperand
  split
  case isTrue hlen =>
    obtain ⟨c, hc, hcode⟩ := h.resolve_left fun hne => hne hlen
    have hall : ¬ (text.all fun c => decide (c.toNat ≤ 255)) = true := fun hall =>
      absurd (of_decide_eq_true (List.all_eq_true.mp hall c hc)) (by omega)
    exact ⟨.textCode, by rw [textToBits, if_neg hall]; rfl⟩
  case isFalse => exact ⟨_, rfl⟩

/-- A character that is no hex digit makes the whole string none (R66). -/
theorem hexToBits_error {h : List Char} {c : Char} (hc : c ∈ h) (hv : hexValue c = none) :
    hexToBits h = .error .hexText := by
  induction h with
  | nil => cases hc
  | cons d rest ih =>
    rcases List.mem_cons.mp hc with rfl | hrest
    · simp [hexToBits, hv]
    · simp [hexToBits, ih hrest]

/-- A string that is not 16 hex digits is no operand (R66, R222). -/
theorem hexOperand_error {h : List Char} (hbad : h.length ≠ 16 ∨ ∃ c ∈ h, hexValue c = none) :
    ∃ why, hexOperand h = .error why := by
  unfold hexOperand
  split
  case isTrue hlen =>
    obtain ⟨c, hc, hv⟩ := hbad.resolve_left fun hne => hne hlen
    exact ⟨.hexText, by rw [hexToBits_error hc hv]; rfl⟩
  case isFalse => exact ⟨_, rfl⟩

/-- An access that is not 64 bits wide, at a multiple of 8, inside the window is not legal (R54). -/
theorem accessLegal_eq_false {bits off : Nat} (h : ¬(bits = 64 ∧ off % 8 = 0 ∧ off < 0x3000)) :
    accessLegal bits off = false := by
  cases hl : accessLegal bits off with
  | false => rfl
  | true =>
    simp only [accessLegal, Bool.and_eq_true, beq_iff_eq, decide_eq_true_eq, and_assoc] at hl
    exact absurd hl h

/-- An illegal access is refused (R54, R222). -/
theorem performEvent_of_illegal {bits off : Nat} {v : Word} {e : HostEvent}
    (he : e = .write bits off v ∨ e = .read bits off) (h : ¬(bits = 64 ∧ off % 8 = 0 ∧ off < 0x3000)) (s : State) :
    performEvent e s = .next (setRefused s) := by
  rcases he with rfl | rfl <;> simp [performEvent, accessLegal_eq_false h]

/-- A width that is no multiple of 4 makes bits_to_hex one refused action; any other reaches no register (R64, R65,
R222). -/
theorem expandAction_toHex (bs : List Bool) :
    (bs.length % 4 ≠ 0 → expandAction (.toHex bs) = [.refuse .hexWidth]) ∧
      (bs.length % 4 = 0 → expandAction (.toHex bs) = []) := by
  constructor <;> intro h <;> simp [expandAction, bitsToHex, h, hexAccess]

/-- A refused operand is a refused action (R222). -/
theorem performEvent_loadAccess_error {e : HostEvent} {r : RegName} {operand : Except HostRefusal Word}
    (he : [e] = [loadAccess r operand]) (h : ∃ why, operand = .error why) (s : State) :
    performEvent e s = .next (setRefused s) := by
  obtain ⟨why, rfl⟩ := h
  cases he
  rfl

/-- A legal access leaves the mark as it is (R222). -/
theorem step_refused_of_legal {s : State} {off : Nat} {rest : List HostEvent} (h8 : off % 8 = 0)
    (hlt : off < windowSize)
    (hn : NextAction s (.read 64 off) rest ∨ ∃ v, NextAction s (.write 64 off v) rest) :
    ∃ t, step s = .next t ∧ t.refused = false := by
  rcases hn with hn | ⟨v, hn⟩
  · refine ⟨_, step_read hn h8 hlt, ?_⟩
    rcases hostRead_cases off { s with pending := rest } with ⟨v, -, h⟩ | ⟨-, h⟩ <;> rw [h] <;> exact hn.1
  · obtain ⟨t, ht⟩ := hostWrite_next off v { s with pending := rest }
    exact ⟨t, (step_write hn h8 hlt).trans ht, (hostWrite_keepsHost ht).refused.trans hn.1⟩

/-- Settles O37: each of the four actions is performed as a refusal. -/
theorem refusedActionsSetTheMark : Obligations.RefusedActionsSetTheMark := by
  unfold Obligations.RefusedActionsSetTheMark
  refine ⟨?refused, fun s off rest h8 hlt => step_refused_of_legal h8 hlt, ?toHex, ?kept⟩
  case refused =>
    rintro s e rest ⟨hr, hp⟩ h
    rw [step_of_pending hr hp]
    rcases h with ⟨bits, off, v, he, h⟩ | ⟨r, text, he, h⟩ | ⟨bs, he, h⟩ | ⟨r, digits, he, h⟩
    · exact performEvent_of_illegal he h _
    · exact performEvent_loadAccess_error he (textOperand_error h) _
    · obtain ⟨hrefuse, -⟩ := expandAction_toHex bs
      cases he.trans (hrefuse h)
      rfl
    · exact performEvent_loadAccess_error he (hexOperand_error h) _
  case toHex =>
    intro bs
    obtain ⟨hrefuse, hempty⟩ := expandAction_toHex bs
    exact ⟨fun h => ⟨_, hrefuse h⟩, hempty⟩
  case kept => exact fun s h => ⟨s, step_of_refused h, h⟩

/-! ### Reads after writes -/

/-- A step whose next action writes a register other than CMD stores the value (R52). -/
theorem step_write_register {s : State} {r : RegName} {v : Word} {rest : List HostEvent}
    (hn : NextAction s (.write 64 (offsetOf r) v) rest) (hr : r ≠ .cmd) :
    step s = .next (writeRegister r v { s with pending := rest }) := by
  obtain ⟨h8, hlt⟩ := accessLegal_64_iff.mp (accessLegal_offsetOf r)
  rw [step_write hn h8 hlt]
  rcases hostWrite_cases (offsetOf r) v { s with pending := rest } with ⟨h, -⟩ | ⟨h, -⟩ | ⟨r', h, -, hw⟩
  · simp at h
  · rw [regAt_offsetOf] at h
    exact absurd (Option.some.inj h) hr
  · rw [regAt_offsetOf] at h
    cases h
    exact hw

/-- A read right after a write of the same register finds what the write left there (R60, R244). -/
theorem runSteps_write_read {s : State} {r : RegName} {v w : Word} (hr : r ≠ .cmd)
    (hvalue : ∀ t, registerValue r (writeRegister r v t) = some w) (rest : List HostEvent) (hs : s.refused = false) :
    ∃ t, runSteps 2 { s with pending := .write 64 (offsetOf r) v :: .read 64 (offsetOf r) :: rest } = t ∧
      t.reads = s.reads ++ [w] ∧ t.pending = rest := by
  obtain ⟨hpending, hreads, hrefused, -⟩ := writeRegister_host r v { s with pending := .read 64 (offsetOf r) :: rest }
  have hwrite := step_write_register
    (s := { s with pending := .write 64 (offsetOf r) v :: .read 64 (offsetOf r) :: rest }) ⟨hs, rfl⟩ hr
  have hread := step_read_of_value ⟨hrefused.trans hs, hpending⟩ (hvalue _)
  rw [runSteps_succ hwrite, runSteps_succ hread, hreads]
  exact ⟨_, rfl, rfl, rfl⟩

/-- The low 48 bits in a 64-bit slot are the word with its high 16 bits masked away (R27, R36). -/
theorem placed_lowBits_48 (v : Word) : placed (lowBits 48 v) = v &&& 0x0000FFFFFFFFFFFF := by
  apply BitVec.eq_of_toNat_eq
  rw [placed, lowBits, BitVec.toNat_setWidth, BitVec.toNat_setWidth, BitVec.toNat_and,
    show (0x0000FFFFFFFFFFFF : Word).toNat = 2 ^ 48 - 1 from rfl, Nat.and_two_pow_sub_one_eq_mod]
  omega

/-- Settles O38: DIN and KEY hold the word written, and RKIN its low 48 bits. -/
theorem readAfterWriteReturnsValue : Obligations.ReadAfterWriteReturnsValue := by
  unfold Obligations.ReadAfterWriteReturnsValue
  intro s v rest hs
  refine ⟨fun r hr => ?_, runSteps_write_read (r := .rkin) (by decide) (fun t => ?rkin) rest hs⟩
  · simp only [List.mem_cons, List.not_mem_nil, or_false] at hr
    rcases hr with rfl | rfl
    · exact runSteps_write_read (by decide) (fun _ => rfl) rest hs
    · exact runSteps_write_read (by decide) (fun _ => rfl) rest hs
  case rkin => exact congrArg some (placed_lowBits_48 v)

/-! ### The encryption sequence -/

/-- What a register reads as does not depend on the accesses to come or on the values read. -/
theorem registerValue_hostPart (r : RegName) (s : State) (es : List HostEvent) (ws : List Word) :
    registerValue r { s with pending := es, reads := ws } = registerValue r s := by
  cases r <;> rfl

/-- Reading registers that hold values, one after the other, observes those values in order and nothing else (R53). -/
theorem runSteps_reads {rest : List HostEvent} (l : List (RegName × Word)) {s : State} (hs : s.refused = false)
    (hp : s.pending = l.map (fun p => readAccess p.1) ++ rest) (hv : ∀ p ∈ l, registerValue p.1 s = some p.2) :
    runSteps l.length s = { s with pending := rest, reads := s.reads ++ l.map Prod.snd } := by
  induction l generalizing s with
  | nil =>
    obtain rfl := hp
    simp [runSteps]
  | cons p l ih =>
    have hstep := step_read_of_value ⟨hs, hp⟩ (hv p List.mem_cons_self)
    have hrest := ih
      (s := { s with pending := l.map (fun p => readAccess p.1) ++ rest, reads := s.reads ++ [p.2] }) hs rfl
      fun q hq => (registerValue_hostPart q.1 s _ _).trans (hv q (List.mem_cons_of_mem p hq))
    rw [List.length_cons, runSteps_succ hstep]
    exact hrest.trans (by simp)

/-- The two orders in which a host may write the operands of an encryption (R243). -/
def operandWrites (pt k : Word) : List (List HostEvent) :=
  [[.write 64 0x010 pt, .write 64 0x018 k], [.write 64 0x018 k, .write 64 0x010 pt]]

/-- Two steps write the operands, in either order. -/
theorem runSteps_operandWrites {s : State} {pt k : Word} {ops : List HostEvent} (hs : s.refused = false)
    (hops : ops ∈ operandWrites pt k) (n : Nat) (rest : List HostEvent) :
    runSteps (n + 2) { s with pending := ops ++ rest } =
      runSteps n { s with din := ⟨pt, true⟩, key := ⟨k, true⟩, pending := rest } := by
  have hwrite {t : State} {r : RegName} {v : Word} {es : List HostEvent} (hr : r ≠ .cmd) (m : Nat)
      (hn : NextAction t (.write 64 (offsetOf r) v) es) :
      runSteps (m + 1) t = runSteps m (writeRegister r v { t with pending := es }) :=
    runSteps_succ (step_write_register hn hr)
  simp only [operandWrites, List.mem_cons, List.not_mem_nil, or_false] at hops
  rcases hops with rfl | rfl
  · refine (hwrite (r := .din) (by decide) (n + 1) ⟨?_, rfl⟩).trans (hwrite (r := .key) (by decide) n ⟨?_, rfl⟩) <;>
      exact hs
  · refine (hwrite (r := .key) (by decide) (n + 1) ⟨?_, rfl⟩).trans (hwrite (r := .din) (by decide) n ⟨?_, rfl⟩) <;>
      exact hs

/-- The registers that hold the results of an encryption, with the values R243 expects in them. -/
def encryptionResults (pt k : Word) : List (RegName × Word) :=
  [(.status, 0), (.dout, (desEncrypt pt k).ct), (.trlen, 282)]

/-- After the write of ENCRYPT's word every result is there to be read (R188, R249). -/
theorem step_encrypt {s : State} {rest : List HostEvent} (hn : NextAction s (.write 64 0x000 (encode .encrypt)) rest)
    (hstatus : s.status = Status.clear) (hdin : s.din.written = true) (hkey : s.key.written = true) :
    ∃ t, step s = .next t ∧ t.refused = s.refused ∧ t.pending = rest ∧ t.reads = s.reads ∧
      ∀ p ∈ encryptionResults s.din.value s.key.value, registerValue p.1 t = some p.2 := by
  refine ⟨_, (step_write_encode hn (congrArg Status.fault hstatus)).trans (exec_encrypt_of_operands_written hdin hkey),
    rfl, rfl, rfl, ?_⟩
  simp [encryptionResults, hstatus, registerValue, Reg.held, State.trlen]

/-- Four steps encrypt the operands written before and read the three results. -/
theorem runSteps_encrypt_reads {s : State} {rest : List HostEvent}
    (hn : NextAction s (.write 64 0x000 (encode .encrypt))
      (readAccess .status :: readAccess .dout :: readAccess .trlen :: rest))
    (hstatus : s.status = Status.clear) (hdin : s.din.written = true) (hkey : s.key.written = true) :
    (runSteps 4 s).reads = s.reads ++ [0, (desEncrypt s.din.value s.key.value).ct, 282] := by
  obtain ⟨t, ht, hrefused, hpending, hreads, hvalues⟩ := step_encrypt hn hstatus hdin hkey
  have hrun : runSteps 3 t = _ := runSteps_reads (rest := rest) (encryptionResults s.din.value s.key.value)
    (hrefused.trans hn.1) hpending hvalues
  rw [runSteps_succ ht, hrun, hreads]
  rfl

/-- Settles O39: two steps write the operands, and four encrypt and read the results. -/
theorem encryptionSequenceReadsResults : Obligations.EncryptionSequenceReadsResults := by
  unfold Obligations.EncryptionSequenceReadsResults
  intro s pt k rest hs hstatus ops hops
  rw [runSteps_operandWrites hs hops 4]
  exact runSteps_encrypt_reads ⟨hs, rfl⟩ hstatus rfl rfl

/-- Settles O40: a faulted engine ignores CMD alone; the other writes and the reads are those of any engine. -/
theorem faultedEngineIgnoresCommands : Obligations.FaultedEngineIgnoresCommands := by
  unfold Obligations.FaultedEngineIgnoresCommands
  intro s rest hf
  refine ⟨fun v hn => ?cmd, fun v hn => step_write_register (r := .din) hn (by decide),
    fun v hn => step_write_register (r := .key) hn (by decide), fun v hn => ?rkin, fun off hn h8 hlt => ?read⟩
  case cmd => exact (step_write_cmd hn).trans (issueCommand_of_faulted hf)
  case rkin =>
    exact (step_write_register (r := .rkin) hn (by decide)).trans (congrArg Host.Outcome.next (setRkin_lowBits _ v))
  case read =>
    have hpending : (regAt off).bind (registerValue · { s with pending := rest }) =
        (regAt off).bind (registerValue · s) :=
      congrArg (regAt off).bind (funext fun r => registerValue_pending r s rest)
    refine ⟨_, step_read hn h8 hlt, ?_⟩
    rw [← hpending]
    rcases hostRead_cases off { s with pending := rest } with ⟨v, hv, h⟩ | ⟨hv, h⟩
    · rw [h, hv]
      exact ⟨rfl, rfl⟩
    · rw [h, hv]
      exact ⟨rfl, rfl⟩

/-! ### The end of a run -/

/-- Whether an action is a read. -/
def HostEvent.isRead : HostEvent → Bool
  | .read _ _ => true
  | _ => false

/-- An action adds one value to those read if it is a read and none otherwise, or it sets the mark (R222, R248). -/
theorem performEvent_reads {e : HostEvent} {s t : State} (h : performEvent e s = .next t) :
    t.refused = true ∨ t.refused = s.refused ∧ t.reads.length = s.reads.length + if e.isRead = true then 1 else 0 := by
  rcases performEvent_cases e s with ⟨off, v, rfl, -, he⟩ | ⟨off, rfl, -, he⟩ | ⟨rfl, he⟩ | he
  · obtain ⟨-, hreads, hrefused, -⟩ := hostWrite_keepsHost (he ▸ h)
    exact .inr ⟨hrefused, by rw [hreads]; rfl⟩
  · cases he.symm.trans h
    rcases hostRead_cases off s with ⟨v, -, hv⟩ | ⟨-, hv⟩ <;> rw [hv] <;>
      exact .inr ⟨rfl, List.length_append⟩
  · cases he.symm.trans h
    exact .inr ⟨rfl, rfl⟩
  · cases he.symm.trans h
    exact .inl rfl

/-- As many steps as there are actions end the run, and a run that was not refused has read one value per read
(R248). -/
theorem runSteps_length_pending {es : List HostEvent} {s : State} (hp : s.pending = es) :
    (runSteps es.length s).RunEnded ∧ ((runSteps es.length s).refused = false →
      (runSteps es.length s).reads.length = s.reads.length + es.countP HostEvent.isRead) := by
  induction es generalizing s with
  | nil => exact ⟨.inl hp, fun _ => rfl⟩
  | cons e rest ih =>
    rcases Bool.eq_false_or_eq_true s.refused with hr | hr
    · rw [runSteps_of_runEnded (.inr hr)]
      exact ⟨.inr hr, fun h => by simp [hr] at h⟩
    · obtain ⟨t, ht⟩ := performEvent_next e { s with pending := rest }
      rw [List.length_cons, runSteps_succ ((step_of_pending hr hp).trans ht)]
      obtain ⟨hended, hcount⟩ := ih (performEvent_pending ht)
      refine ⟨hended, fun h => ?_⟩
      rcases performEvent_reads ht with hmark | ⟨-, hreads⟩
      · rw [runSteps_of_runEnded (.inr hmark), hmark] at h
        cases h
      · rw [hcount h, hreads, List.countP_cons, Nat.add_assoc, Nat.add_comm (List.countP _ _)]

/-- Settles O46: the run ends after its last action, and an ended run is idle. -/
theorem runEndsAfterLastAccess : Obligations.RunEndsAfterLastAccess := by
  unfold Obligations.RunEndsAfterLastAccess
  intro s
  obtain ⟨hended, hreads⟩ := runSteps_length_pending (s := s) rfl
  exact ⟨hended, step_of_runEnded hended, hreads⟩

end Sys2Proof.Machine
end

section
/-! PROOFS. The host's codec and its programs (spec/20_memory.md rules R58 to R66, spec/30_encoding.md rules R87 and
R88). -/

namespace Sys2Proof.Machine

/-- Settles O50: a line's accesses are those of `expandLine`, once its operand is known. -/
theorem hostLinesExpand : Obligations.HostLinesExpand := by
  unfold Obligations.HostLinesExpand
  refine ⟨fun _ _ => rfl, fun _ => rfl, fun _ => rfl, fun _ _ => rfl, fun _ _ => rfl, fun t v h => ?text,
    fun r t h => ?length, fun r h v hv => ?hex⟩
  case text => constructor <;> rw [expandLine, h] <;> rfl
  case length => rw [expandLine, textOperand, if_neg h]; rfl
  case hex => rw [expandLine, hv]; rfl

/-- The bits of the string made of a list of bits are that list (R11, R12). -/
theorem bitsOf_ofBits {w : Nat} {bs : List Bool} (h : bs.length = w) : bitsOf (ofBits w bs) = bs := by
  apply List.ext_getElem (by simp [h])
  intro k hk _
  rw [length_bitsOf] at hk
  simp only [bitsOf, List.getElem_map, List.getElem_range]
  rw [pos_ofBits h (by omega) (by omega)]
  rfl

/-- A digit written for four bits reads back as those bits (R64, R66). -/
theorem hexToBits_cons_digit {q : List Bool} (hq : q.length = 4) {cs : List Char} {bs : List Bool}
    (h : hexToBits cs = .ok bs) : hexToBits (hexDigit (natOfBits q) :: cs) = .ok (q ++ bs) := by
  have hlt : natOfBits q < 16 := by simpa [hq] using natOfBits_lt q
  rw [hexToBits, (hexDigit_spec hlt).1, h]
  exact congrArg (fun bits => Except.ok (bits ++ bs)) (bitsOf_ofBits hq)

/-- The digits of the groups of four of a string whose width 4 divides read back as the string (R66). -/
theorem hexToBits_nibbles {bs : List Bool} (h : bs.length % 4 = 0) :
    hexToBits ((nibbles bs).map fun q => hexDigit (natOfBits q)) = .ok bs := by
  fun_induction nibbles bs with
  | case1 a b c d rest ih =>
    have hrest : rest.length % 4 = 0 := by
      simp only [List.length_cons] at h
      omega
    exact hexToBits_cons_digit rfl (ih hrest)
  | case2 bs hshort =>
    have hlt := length_lt_four hshort
    obtain rfl : bs = [] := List.eq_nil_of_length_eq_zero (by omega)
    rfl

/-- Settles O52. -/
theorem hexRoundTrip : Obligations.HexRoundTrip := by
  unfold Obligations.HexRoundTrip
  exact fun bs h => ⟨_, if_pos h, hexToBits_nibbles h⟩

/-- The string made of blocks of m bits has block i at its positions from m·i+1 on (R13). -/
theorem span_ofBits_flatMap {α : Type} {f : α → List Bool} {m w : Nat} (hf : ∀ x, (f x).length = m) {l : List α}
    (hw : m * l.length = w) {i : Nat} {x : α} (hx : l[i]? = some x) :
    span (ofBits w (l.flatMap f)) (m * i + 1) m = ofBits m (f x) := by
  have hi : i < l.length := (List.getElem?_eq_some_iff.mp hx).1
  have hend : m * i + m ≤ w := by
    rw [← hw, ← Nat.mul_succ]
    exact Nat.mul_le_mul_left m hi
  have hlen : (l.flatMap f).length = w := (length_flatMap_const hf l).trans hw
  apply eq_of_pos_eq
  intro k h1 hk
  have hbit : (l.flatMap f)[m * i + (k - 1)]? = (f x)[k - 1]? := by
    rw [flatMap_getElem? hf l i (k - 1) (by omega), hx, Option.bind_some]
  rw [pos_span _ h1 hk (by omega), pos_ofBits hlen (by omega) (by omega), pos_ofBits (hf x) h1 hk, ← Option.some.injEq,
    ← List.getElem?_eq_getElem, ← List.getElem?_eq_getElem, ← hbit]
  congr 1; omega

/-- The value of a hex digit is below 16 (R66). -/
theorem hexValue_lt {c : Char} {n : Nat} (h : hexValue c = some n) : n < 16 := by
  simp only [hexValue] at h
  split_ifs at h <;> cases h <;> omega

/-- The four bits a hex digit stands for; none of a character that is no digit is used (R66). -/
def hexDigitBits (c : Char) : List Bool := bitsOf (BitVec.ofNat 4 ((hexValue c).getD 0))

/-- hex_to_bits of hex digits is the bits of the digits, one after the other (R66). -/
theorem hexToBits_eq_flatMap {h : List Char} (hv : ∀ c ∈ h, hexValue c ≠ none) :
    hexToBits h = .ok (h.flatMap hexDigitBits) := by
  induction h with
  | nil => rfl
  | cons c rest ih =>
    obtain ⟨n, hn⟩ := Option.ne_none_iff_exists'.mp (hv c List.mem_cons_self)
    rw [hexToBits, hn, ih fun d hd => hv d (List.mem_cons_of_mem c hd), List.flatMap_cons, hexDigitBits, hn]
    rfl

/-- Character i+1 of a text is the eight positions from 8i+1 on (R58, R63). -/
theorem span_text {text : List Char} (hlen : text.length = 8) {i : Nat} {c : Char} (hc : text[i]? = some c) :
    span (ofBits 64 (text.flatMap fun c => charBits c.toNat)) (8 * i + 1) 8 = BitVec.ofNat 8 c.toNat :=
  (span_ofBits_flatMap (fun _ => length_bitsOf _) (by rw [hlen]) hc).trans (ofBits_bitsOf _)

/-- Hex digit i+1 of a string is the four positions from 4i+1 on (R58, R66). -/
theorem span_hex {h : List Char} (hlen : h.length = 16) {i n : Nat} {c : Char} (hc : h[i]? = some c)
    (hn : hexValue c = some n) : span (ofBits 64 (h.flatMap hexDigitBits)) (4 * i + 1) 4 = BitVec.ofNat 4 n := by
  have hbits : hexDigitBits c = bitsOf (BitVec.ofNat 4 n) := by rw [hexDigitBits, hn]; rfl
  rw [span_ofBits_flatMap (f := hexDigitBits) (fun _ => length_bitsOf _) (by rw [hlen]) hc, hbits, ofBits_bitsOf]

/-- Settles O53: both operands are made of blocks, of 8 bits for a character and of 4 for a digit. -/
theorem textAndHexPositions : Obligations.TextAndHexPositions := by
  unfold Obligations.TextAndHexPositions
  refine ⟨fun text hlen hcode => ?text, fun h hlen hv => ?hex⟩
  case text =>
    have hall : (text.all fun c => decide (c.toNat ≤ 255)) = true := by simpa using hcode
    refine ⟨_, by rw [textOperand, if_pos hlen, textToBits, if_pos hall]; rfl, fun k h1 h8 => ?_⟩
    obtain ⟨i, rfl⟩ := Nat.exists_eq_add_of_le' h1
    have hc : text[i]? = some text[i] := List.getElem?_eq_getElem _
    have hlt := hcode _ (List.mem_of_getElem? hc)
    refine ⟨_, hc, ?_⟩
    rw [show 8 * (i + 1) - 7 = 8 * i + 1 by omega, span_text hlen hc]
    exact Nat.mod_eq_of_lt (by omega)
  case hex =>
    refine ⟨_, by rw [hexOperand, if_pos hlen, hexToBits_eq_flatMap hv]; rfl, fun k h1 h16 => ?_⟩
    obtain ⟨i, rfl⟩ := Nat.exists_eq_add_of_le' h1
    have hc : h[i]? = some h[i] := List.getElem?_eq_getElem _
    obtain ⟨n, hn⟩ := Option.ne_none_iff_exists'.mp (hv _ (List.mem_of_getElem? hc))
    refine ⟨_, hc, ?_⟩
    rw [show 4 * (i + 1) - 3 = 4 * i + 1 by omega, span_hex hlen hc hn, hn]
    exact congrArg some (Nat.mod_eq_of_lt (hexValue_lt hn)).symm

end Sys2Proof.Machine
end

section
/-! PROOFS. A platform of several engines (spec/00_scope.md rule R10, spec/60_exceptions.md rule R226) and the byte
lanes of its bus (spec/20_memory.md rule R59). -/

namespace Sys2Proof.Machine

/-- A step of a slot is the step of its engine. -/
theorem stepSlot_of_step {e : EngineSlot} {t : State} (h : step e.core = .next t) :
    stepSlot e = { e with core := t } := by
  rw [stepSlot, h]

/-- Settles O54: an engine's step or reset is a change of one entry of the list of engines. -/
theorem enginesShareNothing : Obligations.EnginesShareNothing := by
  unfold Obligations.EnginesShareNothing
  refine ⟨fun p k j hjk => ⟨?stepOther, ?resetOther⟩, fun p k e he => ?own, ?count⟩
  case stepOther => exact List.getElem?_modify_ne stepSlot _ hjk.symm
  case resetOther => exact List.getElem?_modify_ne _ _ hjk.symm
  case own =>
    obtain ⟨t, ht⟩ := step_next e.core
    refine ⟨t, ht, ?_⟩
    rw [Platform.stepEngine, List.getElem?_modify_eq, he, ← stepSlot_of_step ht]
    rfl
  case count => simp [Platform.start, Config.nEngines]

/-- One more byte at the end counts 256 to the number of bytes before it. -/
theorem valueOfBytes_concat (bytes : List (BitVec 8)) (b : BitVec 8) :
    valueOfBytes (bytes ++ [b]) = valueOfBytes bytes + 256 ^ bytes.length * b.toNat := by
  induction bytes with
  | nil => simp [valueOfBytes]
  | cons c rest ih =>
    rw [List.cons_append, valueOfBytes, valueOfBytes, ih, List.length_cons, pow_succ]
    ring

/-- The value of the lowest n bytes of a word is the word's value modulo 256 to the n. -/
theorem valueOfBytes_lowBytes (v : Word) (n : Nat) :
    valueOfBytes ((List.range n).map fun i => v.extractLsb' (8 * i) 8) = v.toNat % 256 ^ n := by
  induction n with
  | zero => simp [valueOfBytes, Nat.mod_one]
  | succ n ih =>
    have hbyte : (v.extractLsb' (8 * n) 8).toNat = v.toNat / 256 ^ n % 256 := by
      rw [BitVec.extractLsb'_toNat, Nat.shiftRight_eq_div_pow, pow_mul]
      rfl
    rw [List.range_succ, List.map_append, List.map_singleton, valueOfBytes_concat, ih, hbyte, List.length_map,
      List.length_range, pow_succ, Nat.mod_mul]

/-- The value of the bytes of a word, least significant first, is the word. -/
theorem ofNat_valueOfBytes_bytesOf (v : Word) : BitVec.ofNat 64 (valueOfBytes (bytesOf v)) = v := by
  have hlt : v.toNat < 256 ^ 8 := v.isLt
  rw [bytesOf, valueOfBytes_lowBytes, Nat.mod_eq_of_lt hlt, BitVec.ofNat_toNat, BitVec.setWidth_eq]

/-- Settles O55: under either order the engine takes the bytes least significant first, and they are the word's. -/
theorem byteLanesKeepValue : Obligations.ByteLanesKeepValue := by
  unfold Obligations.ByteLanesKeepValue
  intro order v
  cases order with
  | littleEndian => exact ⟨rfl, ofNat_valueOfBytes_bytesOf v⟩
  | bigEndian =>
    refine ⟨rfl, ?_⟩
    rw [laneValue, busLanes, List.reverse_reverse, ofNat_valueOfBytes_bytesOf]

end Sys2Proof.Machine
end
